-- ==== Sys2Proof/Word.lean ====
section
/-! DEFINITION. The word types of the NC-440 model and the index types of its tables. -/

namespace Sys2Proof

/-- One byte of a message, frame or SPI transaction. -/
abbrev Byte := BitVec 8

/-- A unit number, 0 to 15 (R45). -/
abbrev UnitId := Fin 16

/-- A grant slot number, 0 to 31 (R1). -/
abbrev Slot := Fin 32

/-- A channel: 0 to 3 are SPT.0 to SPT.3, 4 to 7 are RPT.0 to RPT.3, 8 to 11 are SVP.0 to SVP.3 (R68). -/
abbrev ChanId := Fin 12

/-- A stream context number, 0 to 3 (R86). -/
abbrev CtxId := Fin 4

/-- A CAN identifier, 000h to 7FFh. -/
abbrev CanId := BitVec 11

end Sys2Proof
end

