-- ==== Sys2Proof/Config.lean ====
section
/-! DEFINITION. The numbers the manual fixes for the part: times in milliseconds, depths and limits.
The manual leaves no value open that an implementation would choose, so no constant here is opaque. -/

namespace Sys2Proof.Config

/-- Filter time of IGN, RUN and MOVE (R41). -/
def filterMs : Nat := 50
/-- Link timer of the service link (R154, R156). -/
def linkMs : Nat := 2000
/-- Gap timer of an SPT reassembly (R154, R155). -/
def gapMs : Nat := 1000
/-- Presence timer of a claim (R60). -/
def presenceMs : Nat := 1000
/-- Idle timer of a stream (R86, R95). -/
def idleMs : Nat := 3000
/-- Recovery timer of an OFF bus (R129). -/
def recoveryMs : Nat := 200
/-- Reply timer after a WAIT (R125). -/
def waitMs : Nat := 5000
/-- Places of a reply queue (R161). -/
def replyDepth : Nat := 12
/-- Places of the map engine's queue (R100). -/
def mapQueueDepth : Nat := 4
/-- Channel requests a wait list admits (R36, R50). -/
def waitChannelPlaces : Nat := 4
/-- Records the access trail holds (R148). -/
def trailDepth : Nat := 64
/-- Records from which TRAIL_HIGH is handed (R151). -/
def trailHigh : Nat := 48
/-- Data bytes of one segment (R121, R154). -/
def segmentData : Nat := 62
/-- Longest reply body a bus controller reassembles (R123). -/
def unitBodyMax : Nat := 248
/-- Units that may be DEFINED on one bus (R48). -/
def unitsPerBus : Nat := 8

end Sys2Proof.Config
end

