-- ==== Sys2Proof/Syntax.lean ====
section
/-! DEFINITION. The commands of the NC-440: one constructor of `Instr` per row of spec/opcode_table.json,
with the row's operands, and the operand types. -/

namespace Sys2Proof

/-- The three filtered input lines (R41). -/
inductive Line where
  | ign | run | move
  deriving DecidableEq, Repr

/-- The two message buffers of a channel, and the values of its expected-buffer mark (R68). -/
inductive Buf where
  | x | y
  deriving DecidableEq, Repr

/-- The three requester ports; also the requesters SERVICE, REMOTE and SUPERVISOR behind them (R1). -/
inductive Port where
  | spt | rpt | svp
  deriving DecidableEq, Repr

/-- The two SPI target ports (R159). -/
inductive SpiPort where
  | rpt | svp
  deriving DecidableEq, Repr

/-- The two unit buses (R116). -/
inductive BusId where
  | ub0 | ub1
  deriving DecidableEq, Repr

/-- A request message as it arrives at a channel: the buffer bit and the body's bytes after its kind byte
(11.2): unit, fields length, reserved byte, fields.
The row of the table gives the kind. -/
structure ReqMsg where
  chan : ChanId
  buf : Buf
  unit : Byte
  len : Byte
  reserved : Byte
  fields : List Byte
  deriving DecidableEq, Repr

/-- The envelope of a WRITE MESSAGE with the control mark set: the channel index and buffer bit that the
command's reply carries (R162). -/
structure Envelope where
  idx : Fin 4
  buf : Buf
  deriving DecidableEq, Repr

/-- GRANT INSTALL's 23 argument bytes, as the fields of 11.6. -/
structure GrantArgs where
  slot : Byte
  requester : Byte
  unitValue : Byte
  unitMask : Byte
  classes : BitVec 16
  itemValue : BitVec 16
  itemMask : BitVec 16
  routineValue : BitVec 16
  routineMask : BitVec 16
  rights : Byte
  allowance : BitVec 32
  expiry : BitVec 16
  escalate : Byte
  lapse : Byte
  deriving DecidableEq, Repr

/-- One window of UNIT DEFINE (11.6); its two reserved bytes are not read (R167). -/
structure WindowArgs where
  base : BitVec 16
  granularity : Byte
  length : BitVec 16
  attributes : Byte
  deriving DecidableEq, Repr

/-- One map of UNIT DEFINE (11.6). -/
structure MapArgs where
  window : Byte
  cell : Byte
  columns : Byte
  rows : Byte
  offset : BitVec 32
  pitch : BitVec 16
  deriving DecidableEq, Repr

/-- UNIT DEFINE's 82 argument bytes, as the fields of 11.6. -/
structure UnitArgs where
  unit : Byte
  bus : Byte
  reqId : BitVec 16
  repId : BitVec 16
  timeout : BitVec 16
  windowsPresent : Byte
  mapsPresent : Byte
  windows : Vector WindowArgs 4
  maps : Vector MapArgs 4
  deriving DecidableEq, Repr

/-- The counter form of MONITOR SETUP (11.6). -/
structure SetupArgs where
  counter : Byte
  enable : Byte
  event : Byte
  ports : Byte
  bus : Byte
  unitValue : Byte
  unitMask : Byte
  threshold : Byte
  invert : Byte
  edge : Byte
  escalate : Byte
  deriving DecidableEq, Repr

/-- The commands of the block, in the table's order.
`race` is the order in which the consequences of one event reach the blocks concerned, where the manual
gives none (log 4): the k-th number picks the k-th consequence among those not yet taken. -/
inductive Instr where
  /-- POWER_ON (R168). -/
  | powerOn
  /-- RESET_N_ASSERTED (R168). -/
  | resetNAsserted
  /-- RAW_LINE_CHANGE (R41): the raw pin takes a level. -/
  | rawLineChange (line : Line) (level : Bool)
  /-- FILTER_TIMER_EXPIRY (R41 to R44). -/
  | filterTimerExpiry (line : Line) (race : List Nat)
  /-- VALID_SEGMENT (R154 to R156): a frame on SPT. -/
  | validSegment (id : CanId) (frame : List Byte)
  /-- GAP_TIMER_EXPIRY (R155). -/
  | gapTimerExpiry (idx : Fin 4)
  /-- LINK_TIMER_EXPIRY (R157). -/
  | linkTimerExpiry (race : List Nat)
  /-- SPT_REPLY_TRANSMIT (R161). -/
  | sptReplyTransmit
  /-- WRITE_MESSAGE (R159): the bytes of a whole SPI transaction, its kind byte first. -/
  | writeMessage (port : SpiPort) (mosi : List Byte) (race : List Nat)
  /-- READ_REPLY (R160): `clocked` bytes are clocked out after the kind byte. -/
  | readReply (port : SpiPort) (clocked : Nat)
  /-- READ_STATUS (R160): `clocked` bytes are clocked out after the kind byte. -/
  | readStatus (port : SpiPort) (clocked : Nat)
  /-- CHANNEL_OPEN (R77). -/
  | channelOpen (m : ReqMsg)
  /-- CHANNEL_CLOSE (R78). -/
  | channelClose (m : ReqMsg)
  /-- ITEM_READ (R26). -/
  | itemRead (m : ReqMsg)
  /-- FAULT_READ (R26). -/
  | faultRead (m : ReqMsg)
  /-- FAULT_CLEAR (R31). -/
  | faultClear (m : ReqMsg)
  /-- ROUTINE (R31). -/
  | routine (m : ReqMsg)
  /-- WINDOW_READ (R32). -/
  | windowRead (m : ReqMsg)
  /-- WINDOW_WRITE (R32). -/
  | windowWrite (m : ReqMsg)
  /-- MAP_READ (R33). -/
  | mapRead (m : ReqMsg)
  /-- MAP_WRITE (R34). -/
  | mapWrite (m : ReqMsg)
  /-- MODE_CLAIM (R55). -/
  | modeClaim (m : ReqMsg)
  /-- KEEP (R59). -/
  | keep (m : ReqMsg)
  /-- MODE_RELEASE (R62). -/
  | modeRelease (m : ReqMsg)
  /-- STREAM_OPEN (R87). -/
  | streamOpen (m : ReqMsg)
  /-- BLOCK (R88). -/
  | block (m : ReqMsg)
  /-- STREAM_END (R93). -/
  | streamEnd (m : ReqMsg)
  /-- STREAM_ABORT (R94). -/
  | streamAbort (m : ReqMsg)
  /-- MESSAGE_BEGIN (R120). -/
  | messageBegin (bus : BusId)
  /-- FRAME_SENT (R121). -/
  | frameSent (bus : BusId)
  /-- FRAME_FAILED (R128). -/
  | frameFailed (bus : BusId) (race : List Nat)
  /-- RECOVERY_TIMER_EXPIRY (R130). -/
  | recoveryTimerExpiry (bus : BusId)
  /-- UNIT_REPLY_SEGMENT (R123): a frame on a unit bus. -/
  | unitReplySegment (bus : BusId) (id : CanId) (frame : List Byte)
  /-- REPLY_TIMER_EXPIRY (R126). -/
  | replyTimerExpiry (unit : UnitId)
  /-- WAIT_LIST_PROMOTION (R52). -/
  | waitListPromotion (unit : UnitId)
  /-- STREAM_CONTEXT_FREED (R92). -/
  | streamContextFreed (ctx : CtxId)
  /-- MAP_JOB_START (R103). -/
  | mapJobStart
  /-- STAGED_REQUEST_PROMOTION (R75). -/
  | stagedRequestPromotion (chan : ChanId)
  /-- CHANNEL_DRAINED (R85). -/
  | channelDrained (chan : ChanId)
  /-- CLAIM_TIMER_EXPIRY (R58). -/
  | claimTimerExpiry (unit : UnitId)
  /-- PRESENCE_TIMER_EXPIRY (R60). -/
  | presenceTimerExpiry (unit : UnitId)
  /-- IDLE_TIMER_EXPIRY (R95). -/
  | idleTimerExpiry (ctx : CtxId)
  /-- GRANT_EXPIRY (R12). -/
  | grantExpiry (slot : Slot) (race : List Nat)
  /-- SAMPLE_TIMER_EXPIRY (R137). -/
  | sampleTimerExpiry
  /-- GRANT_INSTALL (R4, R5). -/
  | grantInstall (env : Envelope) (a : GrantArgs)
  /-- GRANT_SUSPEND (R9). -/
  | grantSuspend (env : Envelope) (slot : Byte)
  /-- GRANT_RESUME (R10). -/
  | grantResume (env : Envelope) (slot : Byte)
  /-- GRANT_RECHARGE (R11). -/
  | grantRecharge (env : Envelope) (slot : Byte) (allowance : BitVec 32)
  /-- GRANT_REVOKE (R13). -/
  | grantRevoke (env : Envelope) (slot : Byte) (race : List Nat)
  /-- GRANT_QUERY (R19). -/
  | grantQuery (env : Envelope) (slot : Byte)
  /-- UNIT_DEFINE (R48). -/
  | unitDefine (env : Envelope) (a : UnitArgs)
  /-- UNIT_CLEAR (R49). -/
  | unitClear (env : Envelope) (unit : Byte)
  /-- CLAIM_END (R65). -/
  | claimEnd (env : Envelope) (unit : Byte)
  /-- CHANNEL_HALT (R84). -/
  | channelHalt (env : Envelope) (port : Byte) (index : Byte)
  /-- CHANNEL_CLEAR (R85). -/
  | channelClear (env : Envelope) (port : Byte) (index : Byte)
  /-- MONITOR_SETUP, counter form (R134). -/
  | monitorSetup (env : Envelope) (a : SetupArgs)
  /-- MONITOR_SETUP_GLOBAL (R135). -/
  | monitorSetupGlobal (env : Envelope) (steps : Byte) (policies : Byte)
  /-- MONITOR_READ (R145). -/
  | monitorRead (env : Envelope) (selector : Byte)
  /-- MONITOR_PRELOAD (R140). -/
  | monitorPreload (env : Envelope) (counter : Byte) (value : BitVec 32)
  /-- MONITOR_ACKNOWLEDGE (R142). -/
  | monitorAcknowledge (env : Envelope) (counters : Byte) (grants : BitVec 32) (flags : Byte)
  /-- FREEZE (R144). -/
  | freeze (env : Envelope)
  /-- UNFREEZE (R144). -/
  | unfreeze (env : Envelope)
  /-- TRAIL_READ (R152). -/
  | trailRead (env : Envelope) (count : Byte)
  /-- PORT_SETUP (R158). -/
  | portSetup (env : Envelope) (reqId : BitVec 16) (repId : BitVec 16)
  /-- STATUS_READ (R163). -/
  | statusRead (env : Envelope)
  /-- GATEWAY_RESET (R164). -/
  | gatewayReset (env : Envelope)
  /-- SPT_REPLY_FRAME_DONE (R161): the frame on the wire is sent, or fails. -/
  | sptReplyFrameDone (sent : Bool)
  deriving DecidableEq, Repr

end Sys2Proof
end

