-- ==== Sys2Proof/Decode.lean ====
section
/-! DEFINITION. spec/opcode_table.json gives no bits for any of its 67 rows: the commands of this block are
events on its ports, lines and timers, not words.
So no word spells a command. -/

namespace Sys2Proof

/-- The command an `nbits`-wide word spells by the table's bits: none, for no row gives bits. -/
def decodeTableWord (_nbits _w : Nat) : Option Instr := none

end Sys2Proof
end

