-- ==== Sys2Proof/Machine/State.lean ====
section
/-! DEFINITION. The state of the NC-440 as plain data, its fault and refusal names, and the state after reset.
Every item the chapters' state tables name (R1, R45, R68, R86, R100, R116, R133, R148, R154) is here once. -/

namespace Sys2Proof.Machine

/-! ### Faults and refusals -/

/-- Why the machine stops. No rule of the manual stops the part: bad requests and commands are answered with
a status, bad frames are discarded, a bus-off is a state. So there is no fault, and no meaning raises one. -/
inductive Fault where
  deriving DecidableEq, Repr

/-- Why a command has no meaning in the model. -/
inductive Refusal where
  /-- Raised by an arm of `exec` whose command has no meaning yet (safe: nothing is claimed of it).
  Every arm has its meaning, so none raises it. -/
  | notModelled (mnemonic : String)
  deriving DecidableEq, Repr

/-! ### Families indexed by a port, a bus or a line -/

/-- One value for each requester port. -/
structure PerPort (α : Type) where
  spt : α
  rpt : α
  svp : α
  deriving DecidableEq, Repr

/-- One value for each unit bus. -/
structure PerBus (α : Type) where
  ub0 : α
  ub1 : α
  deriving DecidableEq, Repr

/-- One value for each input line. -/
structure PerLine (α : Type) where
  ign : α
  run : α
  move : α
  deriving DecidableEq, Repr

/-! ### Codes -/

/-- Status codes (Introduction 1.11). -/
inductive Status where
  | done | short | unitNegative | timeout
  | channelClosed | channelHalted | notReady | sequence | malformed | wrongState
  | frozen | noUnit | noGrant | suspended | budget | held | notClaimed | interlock
  | outOfWindow | outOfMap | badLength | unitBusy | engineBusy | noRoom | overrun
  | unitAsleep | busFault | withdrawn | streamFailed | streamAborted
  | badArgument | inUse
  deriving DecidableEq, Repr

/-- The seventeen request kinds (2.1.1). -/
inductive ReqKind where
  | channelOpen | channelClose | itemRead | faultRead | faultClear | routine | windowRead | windowWrite
  | mapRead | mapWrite | modeClaim | keep | modeRelease | streamOpen | block | streamEnd | streamAbort
  deriving DecidableEq, Repr

/-! ### The grant table (R1) -/

/-- Lifecycle states of a grant (1.3). -/
inductive GrantState where
  | vacant | armed | active | suspended | spent
  deriving DecidableEq, Repr

/-- A window right (R3). -/
inductive Right where
  | none | read | readWrite
  deriving DecidableEq, Repr

/-- A grant slot's record (R1). `subMs` is the model's own: milliseconds of the present second of `expiry`. -/
structure Grant where
  state : GrantState
  requester : Port
  unitValue : BitVec 4
  unitMask : BitVec 4
  classes : BitVec 8
  itemValue : BitVec 16
  itemMask : BitVec 16
  routineValue : BitVec 16
  routineMask : BitVec 16
  rights : Vector Right 4
  allowance : BitVec 20
  counter : BitVec 20
  escalate : Bool
  expiry : BitVec 16
  subMs : Nat
  lapse : Bool
  deriving DecidableEq, Repr

/-- The initial values of R1's table. -/
def Grant.vacant : Grant where
  state := .vacant
  requester := .spt
  unitValue := 0
  unitMask := 0
  classes := 0
  itemValue := 0
  itemMask := 0
  routineValue := 0
  routineMask := 0
  rights := Vector.replicate 4 .none
  allowance := 0
  counter := 0
  escalate := false
  expiry := 0
  subMs := 0
  lapse := false

/-! ### Units (R45 to R47, R54) -/

/-- A working mode of a unit (3.3). -/
inductive Mode where
  | attended | flash
  deriving DecidableEq, Repr

/-- A window's granularity (R46). -/
inductive Granularity where
  | g256 | g4096
  deriving DecidableEq, Repr

/-- A window (R46): base granule G, granularity g, length L in granules. -/
structure Window where
  base : BitVec 16
  granularity : Granularity
  length : Nat
  live : Bool
  flashTarget : Bool
  deriving DecidableEq, Repr

/-- A map (R47): window index w, offset m, cell size s, columns C, rows R, pitch P. -/
structure MapDef where
  window : Fin 4
  offset : Nat
  cell : Nat
  columns : Nat
  rows : Nat
  pitch : Nat
  deriving DecidableEq, Repr

/-- The definition fields of a DEFINED unit (R45). -/
structure UnitDef where
  bus : BusId
  reqId : CanId
  repId : CanId
  timeout : Nat
  windows : Vector (Option Window) 4
  maps : Vector (Option MapDef) 4
  deriving DecidableEq, Repr

/-- States of a claim (R54). -/
inductive ClaimState where
  | free | entering | attended | flash | leaving
  deriving DecidableEq, Repr

/-- Why a claim is leaving (3.4). -/
inductive ClaimReason where
  | released | lapsed | forced | closed | grantEnded | interlock | busFault | ignition
  deriving DecidableEq, Repr

/-- A claim record (R54). -/
structure Claim where
  state : ClaimState
  holder : Option ChanId
  grant : Option Slot
  target : Option Mode
  prior : Option Mode
  left : Option Mode
  keep : Nat
  reason : Option ClaimReason
  releasePending : Bool
  deriving DecidableEq, Repr

/-- A FREE claim: optional fields absent, release pending no (R54). DESIGN CHOICE: its keep period is 0 (log 10). -/
def Claim.free : Claim where
  state := .free
  holder := none
  grant := none
  target := none
  prior := none
  left := none
  keep := 0
  reason := none
  releasePending := false

/-- A unit message with its arguments (R121). -/
inductive UnitMsg where
  | itemFetch (id : BitVec 16)
  | faultList
  | faultErase
  | routineRun (id : BitVec 16) (arg : List Byte)
  | memoryFetch (addr : Nat) (len : Nat)
  | memoryStore (addr : Nat) (data : List Byte) (program : Bool)
  | modeEnter (mode : Mode)
  | modeBase
  | presence
  deriving DecidableEq, Repr

/-- The source of an entry (R50). A map-row request names its job's channel; a stream block its context and
channel. -/
inductive Source where
  | channel (c : ChanId)
  | stream (k : CtxId) (c : ChanId)
  | mapRow (c : ChanId)
  | base
  deriving DecidableEq, Repr

/-- An entry of a unit (R50): source, message, grant; with the window a write goes to (read by R43) and the
keep period a MODE ENTER asks for (read by R56). -/
structure Entry where
  source : Source
  msg : UnitMsg
  grant : Option Slot
  window : Option (Fin 4)
  keep : Nat
  deriving DecidableEq, Repr

/-- A unit's reply reassembly in progress (R123). -/
structure UnitReasm where
  length : Nat
  bytes : List Byte
  next : Nat
  deriving DecidableEq, Repr

/-- An awaited reply (R124). The requested length of a MEMORY FETCH stands in its message. -/
structure Awaited where
  tag : BitVec 4
  msg : UnitMsg
  waits : Nat
  timer : Nat
  deriving DecidableEq, Repr

/-- A unit record (R45), with the reply reassembly and awaited reply that its bus controller keeps for it
(R116). -/
structure UnitRec where
  defn : Option UnitDef
  claim : Claim
  claimTimer : Option Nat
  presence : Option Nat
  tag : BitVec 4
  out : Option Entry
  wait : List Entry
  reasm : Option UnitReasm
  awaited : Option Awaited
  deriving DecidableEq, Repr

/-- A unit record after power-on (R45, R67). -/
def UnitRec.initial : UnitRec where
  defn := none
  claim := Claim.free
  claimTimer := none
  presence := none
  tag := 0
  out := none
  wait := []
  reasm := none
  awaited := none

/-! ### Channels (R68) -/

/-- States of a channel (R69). -/
inductive ChanState where
  | closed | idle | busy | streaming | halted
  deriving DecidableEq, Repr

/-- Why a channel became HALTED (R82). -/
inductive HaltCause where
  | command | replyDropped | overrun
  deriving DecidableEq, Repr

/-- Where the work of an active request stands (R74). -/
inductive Place where
  | unit (u : UnitId)
  | modeClaim (u : UnitId)
  | modeRelease (u : UnitId)
  | map
  | stream (k : CtxId)
  deriving DecidableEq, Repr

/-- An active request (R74). -/
structure ActiveReq where
  buf : Buf
  kind : ReqKind
  clamped : Bool
  place : Place
  deriving DecidableEq, Repr

/-- A channel record (R68). A buffer holds the body it took; `staged` names the staged request's buffer. -/
structure Channel where
  state : ChanState
  expect : Buf
  bufX : Option (List Byte)
  bufY : Option (List Byte)
  active : Option ActiveReq
  staged : Option Buf
  binding : Option CtxId
  haltCause : Option HaltCause
  clearPending : Bool
  deriving DecidableEq, Repr

/-- The last column of R68's table. -/
def Channel.initial : Channel where
  state := .closed
  expect := .x
  bufX := none
  bufY := none
  active := none
  staged := none
  binding := none
  haltCause := none
  clearPending := false

/-! ### Streams (R86) -/

inductive GapPolicy where
  | strict | lenient
  deriving DecidableEq, Repr

inductive StreamState where
  | filling | draining | concluded
  deriving DecidableEq, Repr

/-- How a CONCLUDED stream ended (R86). -/
inductive Concluded where
  | failed | aborted | withdrawn
  deriving DecidableEq, Repr

/-- The request waiting for slot A (R86, end pending). -/
inductive StreamEnding where
  | streamEnd | streamAbort
  deriving DecidableEq, Repr

/-- Slot A in flight: offset relative to the start offset, and the block's bytes; its size is their number. -/
structure SlotA where
  offset : Nat
  bytes : List Byte
  deriving DecidableEq, Repr

/-- A bound stream context (R86). -/
structure Stream where
  chan : ChanId
  unit : UnitId
  window : Fin 4
  start : Nat
  total : Nat
  size : Nat
  policy : GapPolicy
  grant : Slot
  state : StreamState
  concluded : Option Concluded
  accepted : Nat
  issued : Nat
  confirmed : Nat
  slotA : Option SlotA
  slotB : List Byte
  idle : Option Nat
  release : Bool
  endPending : Option StreamEnding
  deriving DecidableEq, Repr

/-! ### The map engine (R100, R101) -/

inductive JobKind where
  | read | write
  deriving DecidableEq, Repr

/-- One row request of a job's plan: a row of a READ (with its length) or a run of a WRITE (with its row, first
column, cell count and data). -/
structure RowReq where
  row : Nat
  column : Nat
  cells : Nat
  addr : Nat
  len : Nat
  data : List Byte
  deriving DecidableEq, Repr

/-- A job (R101); `planned` is the plan's length. -/
structure Job where
  kind : JobKind
  chan : ChanId
  unit : UnitId
  map : Fin 4
  window : Fin 4
  grant : Slot
  r0 : Nat
  c0 : Nat
  width : Nat
  height : Nat
  plan : List RowReq
  done : Nat
  assembly : List Byte
  issuing : Bool
  deriving DecidableEq, Repr

/-- The row slot's row request: the unit it stands at, and whether its job has ended (R100, R111). -/
structure RowSlot where
  unit : UnitId
  orphan : Bool
  deriving DecidableEq, Repr

structure MapEngine where
  active : Option Job
  queue : List Job
  slot : Option RowSlot
  deriving DecidableEq, Repr

/-! ### Unit buses (R116) -/

inductive BusState where
  | active | off | asleep
  deriving DecidableEq, Repr

/-- A CAN FD frame: identifier and bytes (11.1). -/
structure Frame where
  id : CanId
  bytes : List Byte
  deriving DecidableEq, Repr

/-- A transmit queue entry (R118): a request message, or a PRESENCE frame when `msg` is one.
`reqId` is the unit's request identifier when it was queued (log 12); `source` is absent for PRESENCE. -/
structure QEntry where
  unit : UnitId
  msg : UnitMsg
  source : Option Source
  cls : Nat
  entered : Nat
  tag : BitVec 4
  reqId : CanId
  deriving DecidableEq, Repr

/-- The message in transmission and the index of its segment on the wire (R116, R121). -/
structure Tx where
  entry : QEntry
  seg : Nat
  deriving DecidableEq, Repr

structure Bus where
  state : BusState
  queue : List QEntry
  tx : Option Tx
  wire : Option Frame
  errors : Nat
  recovery : Option Nat
  deriving DecidableEq, Repr

/-- A bus after power-on (R116): ACTIVE if the filtered IGN is asserted, else ASLEEP. -/
def Bus.initial (ign : Bool) : Bus where
  state := if ign then .active else .asleep
  queue := []
  tx := none
  wire := none
  errors := 0
  recovery := none

/-! ### The traffic monitor (R133) -/

/-- The thirteen occurrence events and four level events (R136). -/
inductive Event where
  | admitted | refused | refusedGrant | refusedInterlock | refusedRange | sequence | unitMessages | timeouts
  | lateReply | waitNotices | claimLapses | replyDropped | streamGap
  | channelsBusy | waiting | busQueue | mapQueue
  deriving DecidableEq, Repr

/-- A bus filter (R134). -/
inductive BusFilter where
  | ub0 | ub1 | both
  deriving DecidableEq, Repr

/-- A counter's setup record (R134). -/
structure Setup where
  enable : Bool
  event : Event
  ports : PerPort Bool
  bus : BusFilter
  unitValue : BitVec 4
  unitMask : BitVec 4
  threshold : Nat
  invert : Bool
  edge : Bool
  escalate : Bool
  deriving DecidableEq, Repr

/-- The setup of R147's power-on. -/
def Setup.initial : Setup where
  enable := false
  event := .admitted
  ports := ⟨true, true, true⟩
  bus := .both
  unitValue := 0
  unitMask := 0xF#4
  threshold := 0
  invert := false
  edge := false
  escalate := false

/-- The cause of a freeze that is ON (R133); COUNTER carries its counters as a set, bit n for counter n. -/
inductive FreezeCause where
  | counter (set : BitVec 8)
  | grant (slot : Slot)
  | command
  deriving DecidableEq, Repr

/-- The traffic monitor. `freeze` is none while the freeze is OFF; `escalated` holds bit n for grant n;
`period` is the sample period in 10 ms steps. -/
structure Monitor where
  counters : Vector (BitVec 32) 8
  setups : Vector Setup 8
  edges : Vector Bool 8
  flags : Vector Bool 8
  escalated : BitVec 32
  trailHigh : Bool
  trailWrapped : Bool
  busFault : Bool
  freeze : Option FreezeCause
  countWhileFrozen : Bool
  freezeOnGrant : Bool
  period : BitVec 8
  sampleTimer : Nat
  deriving DecidableEq, Repr

/-- The monitor after power-on (R147). -/
def Monitor.initial : Monitor where
  counters := Vector.replicate 8 0
  setups := Vector.replicate 8 Setup.initial
  edges := Vector.replicate 8 false
  flags := Vector.replicate 8 false
  escalated := 0
  trailHigh := false
  trailWrapped := false
  busFault := false
  freeze := none
  countWhileFrozen := false
  freezeOnGrant := false
  period := 10
  sampleTimer := 100

/-! ### The access trail (R148 to R150) -/

inductive EndReason where
  | revoked | expired | lapsed
  deriving DecidableEq, Repr

/-- A record's kind and detail (R150). -/
inductive Detail where
  | grantStart (recharged : Bool) (allowance : BitVec 20) (state : GrantState)
  | grantEnd (reason : EndReason) (state : GrantState) (allowance counter : BitVec 20)
  | claimStart (mode : Mode) (changed : Bool)
  | claimEnd (reason : ClaimReason) (answered : Bool)
  | faultClear
  | routine (id : BitVec 16)
  | write (window : Fin 4) (offset : Nat) (length : Nat)
  | mapWrite (map : Fin 4) (r0 c0 w1 h1 : Nat)
  | stream (window : Fin 4) (start total : Nat) (ending : Option (Nat × Status))
  | refusal (status : Status) (kind : Byte)
  | freeze (cause : FreezeCause)
  | unfreeze
  | reset
  deriving DecidableEq, Repr

/-- A trail record (9.3). -/
structure Record where
  seq : BitVec 32
  time : BitVec 32
  requester : Option Port
  chan : Option ChanId
  grant : Option Slot
  unit : Option UnitId
  detail : Detail
  deriving DecidableEq, Repr

/-- The trail, oldest record first (R148). -/
structure Trail where
  records : List Record
  next : BitVec 32
  clock : BitVec 32
  deriving DecidableEq, Repr

/-- The trail after power-on (R148). -/
def Trail.initial : Trail := ⟨[], 0, 0⟩

/-! ### Ports (R154, R161) -/

/-- A reply that leaves a channel (R76), or a port's or a command's (R155, R162). `chan` gives port and index. -/
structure Reply where
  chan : ChanId
  buf : Buf
  kind : Byte
  status : Status
  clamped : Bool
  payload : List Byte
  deriving DecidableEq, Repr

/-- An SPT reassembly in progress (R154). -/
structure SptReasm where
  buf : Buf
  length : Nat
  bytes : List Byte
  next : Nat
  gap : Nat
  deriving DecidableEq, Repr

/-- The Service Port (R154). `link` is true while the service link is UP; `sending` is the segment index of the
reply in transmission, the queue's oldest. -/
structure ServicePort where
  reqId : CanId
  repId : CanId
  link : Bool
  linkTimer : Option Nat
  reasm : Vector (Option SptReasm) 4
  sending : Option Nat
  wire : Option Frame
  deriving DecidableEq, Repr

/-- The Service Port after power-on (R154). -/
def ServicePort.initial : ServicePort where
  reqId := 0x7C4#11
  repId := 0x7CC#11
  link := false
  linkTimer := none
  reasm := Vector.replicate 4 none
  sending := none
  wire := none

/-- The bytes each SPI port drove in its last transaction (R159, R160). -/
structure SpiOut where
  rpt : List Byte
  svp : List Byte
  deriving DecidableEq, Repr

/-! ### The whole state -/

/-- The NC-440. `moment` is the model's own count of commands and ticks (log 11); `pending` is the queue of
commands waiting to be taken, first in, first out. -/
structure State where
  inReset : Bool
  raw : PerLine Bool
  filtered : PerLine Bool
  filterTimers : PerLine (Option Nat)
  grants : Vector Grant 32
  units : Vector UnitRec 16
  chans : Vector Channel 12
  streams : Vector (Option Stream) 4
  map : MapEngine
  buses : PerBus Bus
  monitor : Monitor
  trail : Trail
  spt : ServicePort
  replies : PerPort (List Reply)
  miso : SpiOut
  moment : Nat
  pending : List Instr
  deriving DecidableEq, Repr

/-- Every block at its power-on values, for given raw pin levels: filtered lines take the raw levels without
edges (R41), the buses start from IGN (R116), the clock and sample timer start (R148, R147).
DESIGN CHOICE (log 20): the record of SPI bytes driven starts empty; the manual gives none. -/
def State.powerOn (raw : PerLine Bool) : State where
  inReset := false
  raw := raw
  filtered := raw
  filterTimers := ⟨none, none, none⟩
  grants := Vector.replicate 32 Grant.vacant
  units := Vector.replicate 16 UnitRec.initial
  chans := Vector.replicate 12 Channel.initial
  streams := Vector.replicate 4 none
  map := ⟨none, [], none⟩
  buses := ⟨Bus.initial raw.ign, Bus.initial raw.ign⟩
  monitor := Monitor.initial
  trail := Trail.initial
  spt := ServicePort.initial
  replies := ⟨[], [], []⟩
  miso := ⟨[], []⟩
  moment := 0
  pending := []

/-- The machine right after reset. DESIGN CHOICE (log 7): the raw pins IGN, RUN and MOVE are deasserted; the
manual gives their levels to the truck. -/
def State.reset : State := State.powerOn ⟨false, false, false⟩

end Sys2Proof.Machine
end

