-- ==== Sys2Proof/Machine/Bytes.lean ====
section
/-! DEFINITION. Bytes, little-endian numbers, masked matching, segments and CAN FD frames (00 1.8, R2, R154,
R165). -/

namespace Sys2Proof.Machine

/-- The `n` low bytes of `v`, least significant first (byte order of every wire). -/
def leBytes : Nat → Nat → List Byte
  | 0, _ => []
  | n + 1, v => BitVec.ofNat 8 v :: leBytes n (v / 256)

/-- The number a little-endian byte list spells. -/
def leNat : List Byte → Nat
  | [] => 0
  | b :: bs => b.toNat + 256 * leNat bs

/-- A byte from a number below 256. -/
def byte (n : Nat) : Byte := BitVec.ofNat 8 n

/-- Yes as 01h, no as 00h. -/
def flagByte (b : Bool) : Byte := if b then 1 else 0

/-- "Taken as yes for any nonzero value" (R4, 11.6). -/
def yes (b : Byte) : Bool := b != 0

/-- The set of the indices where `f` holds, bit i for index i. -/
def packBits (n : Nat) (f : Fin n → Bool) : BitVec n :=
  (List.finRange n).foldl (fun acc i => if f i then acc ||| BitVec.twoPow n i.val else acc) 0

/-- R2: `v` and `a` hold the same bit wherever the mask `k` holds 0. -/
def maskedMatch {w : Nat} (v a k : BitVec w) : Bool := (v ^^^ a) &&& ~~~k == 0

/-- The shortest CAN FD frame length that holds `n` bytes (R165). -/
def canFdLength (n : Nat) : Nat := (canFdLengths.find? (fun l => n ≤ l)).getD 64
where
  canFdLengths : List Nat := [0, 1, 2, 3, 4, 5, 6, 7, 8, 12, 16, 20, 24, 32, 48, 64]

/-- `bytes` filled with 00h to a CAN FD frame length (R165). -/
def padFrame (bytes : List Byte) : List Byte :=
  bytes ++ List.replicate (canFdLength bytes.length - bytes.length) 0

/-- Number of segments of a body of `b` bytes: ceil(b / 62) (R121, R165). -/
def segmentCount (b : Nat) : Nat := (b + (Config.segmentData - 1)) / Config.segmentData

/-- The buffer bit: 0 = X, 1 = Y (11.1). -/
def bufBit : Buf → Nat
  | .x => 0
  | .y => 1

/-- The buffer a bit names. -/
def bufOfBit (b : Bool) : Buf := if b then .y else .x

/-- The other buffer. -/
def otherBuf : Buf → Buf
  | .x => .y
  | .y => .x

/-- The frame of segment `k` of a body, as R165 fills it. -/
def segmentFrame (id : CanId) (chan : Nat) (buf : Buf) (body : List Byte) (k : Nat) : Frame where
  id := id
  bytes :=
    let first := if k = 0 then 128 else 0
    let last := if k + 1 = segmentCount body.length then 64 else 0
    let header := byte (first + last + 16 * k + 4 * chan + 2 * bufBit buf)
    let length := if k = 0 then byte body.length else 0
    padFrame (header :: length :: (body.drop (Config.segmentData * k)).take Config.segmentData)

/-- A received segment's header fields and data (11.1); reserved bit 0 is ignored (R167). -/
structure Segment where
  first : Bool
  last : Bool
  index : Nat
  chan : Fin 4
  buf : Buf
  length : Nat
  data : List Byte

/-- The segment a frame carries; none for a frame of fewer than 2 bytes. -/
def parseSegment (frame : List Byte) : Option Segment :=
  match frame with
  | h :: l :: data =>
    some {
      first := h.getLsbD 7
      last := h.getLsbD 6
      index := h.toNat / 16 % 4
      chan := Fin.ofNat 4 (h.toNat / 4)
      buf := bufOfBit (h.getLsbD 1)
      length := l.toNat
      data := data.take Config.segmentData }
  | _ => none

end Sys2Proof.Machine
end

