-- ==== Sys2Proof/Machine/Codes.lean ====
section
/-! DEFINITION. The byte codes of the wires: statuses (1.11), request kinds (11.2), commands, states and
reasons (11.3 to 11.7), in both directions where the part reads them. -/

namespace Sys2Proof.Machine

/-- Status codes (1.11). -/
def statusCode : Status → Byte
  | .done => 0x00
  | .short => 0x01
  | .unitNegative => 0x02
  | .timeout => 0x03
  | .channelClosed => 0x10
  | .channelHalted => 0x11
  | .notReady => 0x12
  | .sequence => 0x13
  | .malformed => 0x14
  | .wrongState => 0x15
  | .frozen => 0x20
  | .noUnit => 0x21
  | .noGrant => 0x22
  | .suspended => 0x23
  | .budget => 0x24
  | .held => 0x25
  | .notClaimed => 0x26
  | .interlock => 0x27
  | .outOfWindow => 0x28
  | .outOfMap => 0x29
  | .badLength => 0x2A
  | .unitBusy => 0x2B
  | .engineBusy => 0x2C
  | .noRoom => 0x2D
  | .overrun => 0x2E
  | .unitAsleep => 0x30
  | .busFault => 0x31
  | .withdrawn => 0x32
  | .streamFailed => 0x33
  | .streamAborted => 0x34
  | .badArgument => 0x40
  | .inUse => 0x41

/-- Request kind codes (11.2). -/
def kindCode : ReqKind → Byte
  | .channelOpen => 0x01
  | .channelClose => 0x02
  | .itemRead => 0x03
  | .faultRead => 0x04
  | .faultClear => 0x05
  | .routine => 0x06
  | .windowRead => 0x07
  | .windowWrite => 0x08
  | .mapRead => 0x09
  | .mapWrite => 0x0A
  | .modeClaim => 0x0B
  | .keep => 0x0C
  | .modeRelease => 0x0D
  | .streamOpen => 0x0E
  | .block => 0x0F
  | .streamEnd => 0x10
  | .streamAbort => 0x11

/-- All request kinds. -/
def allKinds : List ReqKind :=
  [.channelOpen, .channelClose, .itemRead, .faultRead, .faultClear, .routine, .windowRead, .windowWrite,
   .mapRead, .mapWrite, .modeClaim, .keep, .modeRelease, .streamOpen, .block, .streamEnd, .streamAbort]

/-- The kind a code names (11.2). -/
def kindOf (b : Byte) : Option ReqKind := allKinds.find? fun k => kindCode k == b

/-- The kind byte of a MALFORMED answer to a message never taken (R155). -/
def noKind : Byte := 0xFF

/-- Kinds that carry a unit (2.1.1). -/
def kindHasUnit : ReqKind → Bool
  | .channelOpen => false
  | .channelClose => false
  | .block => false
  | .streamEnd => false
  | .streamAbort => false
  | .itemRead => true
  | .faultRead => true
  | .faultClear => true
  | .routine => true
  | .windowRead => true
  | .windowWrite => true
  | .mapRead => true
  | .mapWrite => true
  | .modeClaim => true
  | .keep => true
  | .modeRelease => true
  | .streamOpen => true

/-- Grant state codes (11.6). -/
def grantStateCode : GrantState → Byte
  | .vacant => 0
  | .armed => 1
  | .active => 2
  | .suspended => 3
  | .spent => 4

/-- Requester and port codes: 01h SERVICE or SPT, 02h REMOTE or RPT, 03h SUPERVISOR or SVP (11.6, 11.7). -/
def portCode : Port → Nat
  | .spt => 1
  | .rpt => 2
  | .svp => 3

/-- The port or requester a code names. -/
def portOf (b : Byte) : Option Port :=
  if b = 1 then some .spt else if b = 2 then some .rpt else if b = 3 then some .svp else none

/-- Window right codes (11.6). -/
def rightCode : Right → Nat
  | .none => 0
  | .read => 1
  | .readWrite => 2

/-- The right a 2-bit code names; 3 is not a right. -/
def rightOf (n : Nat) : Option Right :=
  if n = 0 then some .none else if n = 1 then some .read else if n = 2 then some .readWrite else none

/-- Mode codes: 01h ATTENDED, 02h FLASH (11.2). -/
def modeCode : Mode → Byte
  | .attended => 1
  | .flash => 2

/-- The mode a code names. -/
def modeOf (b : Byte) : Option Mode :=
  if b = 1 then some .attended else if b = 2 then some .flash else none

/-- The gap policy a code names: 00h STRICT, 01h LENIENT (11.2). -/
def policyOf (b : Byte) : Option GapPolicy :=
  if b = 0 then some .strict else if b = 1 then some .lenient else none

/-- Channel state codes (11.4). -/
def chanStateCode : ChanState → Nat
  | .closed => 0
  | .idle => 1
  | .busy => 2
  | .streaming => 3
  | .halted => 4

/-- Halt cause codes (11.6). -/
def haltCauseCode : Option HaltCause → Nat
  | none => 0
  | some .command => 1
  | some .replyDropped => 2
  | some .overrun => 3

/-- Bus state codes (11.6). -/
def busStateCode : BusState → Byte
  | .active => 0
  | .off => 1
  | .asleep => 2

/-- Stream state codes (11.6); free is 00h. -/
def streamStateCode : StreamState → Byte
  | .filling => 1
  | .draining => 2
  | .concluded => 3

/-- Monitor event codes (11.6). -/
def eventCode : Event → Byte
  | .admitted => 0x01
  | .refused => 0x02
  | .refusedGrant => 0x03
  | .refusedInterlock => 0x04
  | .refusedRange => 0x05
  | .sequence => 0x06
  | .unitMessages => 0x07
  | .timeouts => 0x08
  | .lateReply => 0x09
  | .waitNotices => 0x0A
  | .claimLapses => 0x0B
  | .replyDropped => 0x0C
  | .streamGap => 0x0D
  | .channelsBusy => 0x11
  | .waiting => 0x12
  | .busQueue => 0x13
  | .mapQueue => 0x14

/-- All monitor events. -/
def allEvents : List Event :=
  [.admitted, .refused, .refusedGrant, .refusedInterlock, .refusedRange, .sequence, .unitMessages, .timeouts,
   .lateReply, .waitNotices, .claimLapses, .replyDropped, .streamGap, .channelsBusy, .waiting, .busQueue, .mapQueue]

/-- The event a code names. -/
def eventOf (b : Byte) : Option Event := allEvents.find? fun e => eventCode e == b

/-- Bus filter codes (11.6). -/
def busFilterCode : BusFilter → Byte
  | .ub0 => 0
  | .ub1 => 1
  | .both => 2

/-- The bus filter a code names. -/
def busFilterOf (b : Byte) : Option BusFilter :=
  if b = 0 then some .ub0 else if b = 1 then some .ub1 else if b = 2 then some .both else none

/-- The bus a code names: 00h UB0, 01h UB1 (11.6). -/
def busOf (b : Byte) : Option BusId :=
  if b = 0 then some .ub0 else if b = 1 then some .ub1 else none

/-- Claim reason codes (11.7). -/
def claimReasonCode : ClaimReason → Byte
  | .released => 1
  | .lapsed => 2
  | .forced => 3
  | .closed => 4
  | .grantEnded => 5
  | .interlock => 6
  | .busFault => 7
  | .ignition => 8

/-- Grant end reason codes (11.7). -/
def endReasonCode : EndReason → Byte
  | .revoked => 3
  | .expired => 4
  | .lapsed => 5

/-- Unit message kind codes (11.5). -/
def unitMsgCode : UnitMsg → Byte
  | .itemFetch _ => 0x21
  | .faultList => 0x22
  | .faultErase => 0x23
  | .routineRun _ _ => 0x24
  | .memoryFetch _ _ => 0x25
  | .memoryStore _ _ _ => 0x26
  | .modeEnter _ => 0x27
  | .modeBase => 0x28
  | .presence => 0x29

/-- The payload of a unit message (R121, 11.5). -/
def unitMsgPayload : UnitMsg → List Byte
  | .itemFetch id => leBytes 2 id.toNat
  | .faultList => []
  | .faultErase => []
  | .routineRun id arg => leBytes 2 id.toNat ++ arg
  | .memoryFetch addr len => leBytes 4 addr ++ [byte len]
  | .memoryStore addr data _ => leBytes 4 addr ++ data
  | .modeEnter m => [modeCode m]
  | .modeBase => []
  | .presence => []

/-- The program mark is set on stream blocks alone (R121, R166). -/
def programMark : UnitMsg → Bool
  | .memoryStore _ _ program => program
  | _ => false

/-- A unit message's body: header (kind, tag, payload length, flags) and payload (11.5). -/
def unitMsgBody (tag : BitVec 4) (m : UnitMsg) : List Byte :=
  unitMsgCode m :: byte tag.toNat :: byte (unitMsgPayload m).length :: flagByte (programMark m) :: unitMsgPayload m

/-- Supervisor command codes (11.6). -/
def cmdGrantInstall : Byte := 0x80
def cmdGrantRevoke : Byte := 0x81
def cmdGrantSuspend : Byte := 0x82
def cmdGrantResume : Byte := 0x83
def cmdGrantRecharge : Byte := 0x84
def cmdGrantQuery : Byte := 0x85
def cmdUnitDefine : Byte := 0x88
def cmdUnitClear : Byte := 0x89
def cmdClaimEnd : Byte := 0x8A
def cmdChannelHalt : Byte := 0x8C
def cmdChannelClear : Byte := 0x8D
def cmdMonitorSetup : Byte := 0x90
def cmdMonitorRead : Byte := 0x91
def cmdMonitorPreload : Byte := 0x92
def cmdMonitorAcknowledge : Byte := 0x93
def cmdFreeze : Byte := 0x94
def cmdUnfreeze : Byte := 0x95
def cmdTrailRead : Byte := 0x96
def cmdPortSetup : Byte := 0x97
def cmdStatusRead : Byte := 0x98
def cmdGatewayReset : Byte := 0x99

end Sys2Proof.Machine
end

