-- ==== Sys2Proof/Machine/Ops.lean ====
section
/-! DEFINITION. The named reads and writes of the state: one per table, each read or write of a record goes
through them. -/

namespace Sys2Proof.Machine

/-! ### Families -/

def PerPort.get {α : Type} (t : PerPort α) : Port → α
  | .spt => t.spt
  | .rpt => t.rpt
  | .svp => t.svp

def PerPort.set {α : Type} (t : PerPort α) (p : Port) (x : α) : PerPort α :=
  match p with
  | .spt => { t with spt := x }
  | .rpt => { t with rpt := x }
  | .svp => { t with svp := x }

def PerBus.get {α : Type} (t : PerBus α) : BusId → α
  | .ub0 => t.ub0
  | .ub1 => t.ub1

def PerBus.set {α : Type} (t : PerBus α) (b : BusId) (x : α) : PerBus α :=
  match b with
  | .ub0 => { t with ub0 := x }
  | .ub1 => { t with ub1 := x }

def PerLine.get {α : Type} (t : PerLine α) : Line → α
  | .ign => t.ign
  | .run => t.run
  | .move => t.move

def PerLine.set {α : Type} (t : PerLine α) (l : Line) (x : α) : PerLine α :=
  match l with
  | .ign => { t with ign := x }
  | .run => { t with run := x }
  | .move => { t with move := x }

/-! ### Channels and their numbers -/

/-- The port of a channel. -/
def chanPort (c : ChanId) : Port := if c.val < 4 then .spt else if c.val < 8 then .rpt else .svp

/-- The index of a channel at its port. -/
def chanIdx (c : ChanId) : Fin 4 := Fin.ofNat 4 c.val

/-- The channel of a port and index: SPT.0 is 0, RPT.0 is 4, SVP.0 is 8. -/
def chanOf (p : Port) (i : Fin 4) : ChanId :=
  match p with
  | .spt => ⟨i.val, by omega⟩
  | .rpt => ⟨4 + i.val, by omega⟩
  | .svp => ⟨8 + i.val, by omega⟩

/-- The port of an SPI port. -/
def spiPort : SpiPort → Port
  | .rpt => .rpt
  | .svp => .svp

/-! ### Records -/

def grantAt (g : Slot) (s : State) : Grant := s.grants.get g
def setGrant (g : Slot) (x : Grant) (s : State) : State := { s with grants := s.grants.set g.val x }

def unitAt (u : UnitId) (s : State) : UnitRec := s.units.get u
def setUnit (u : UnitId) (x : UnitRec) (s : State) : State := { s with units := s.units.set u.val x }

def chanAt (c : ChanId) (s : State) : Channel := s.chans.get c
def setChan (c : ChanId) (x : Channel) (s : State) : State := { s with chans := s.chans.set c.val x }

def streamAt (k : CtxId) (s : State) : Option Stream := s.streams.get k
def setStream (k : CtxId) (x : Option Stream) (s : State) : State := { s with streams := s.streams.set k.val x }

def busAt (b : BusId) (s : State) : Bus := s.buses.get b
def setBus (b : BusId) (x : Bus) (s : State) : State := { s with buses := s.buses.set b x }

def repliesAt (p : Port) (s : State) : List Reply := s.replies.get p
def setReplies (p : Port) (q : List Reply) (s : State) : State := { s with replies := s.replies.set p q }

def setMap (m : MapEngine) (s : State) : State := { s with map := m }

/-- The bus a unit is defined on. -/
def unitBus (u : UnitId) (s : State) : Option BusId := (unitAt u s).defn.map (·.bus)

/-- The window of a unit's definition. -/
def windowAt (u : UnitId) (i : Fin 4) (s : State) : Option Window :=
  (unitAt u s).defn.bind fun d => d.windows.get i

/-- The map of a unit's definition. -/
def mapAt (u : UnitId) (j : Fin 4) (s : State) : Option MapDef :=
  (unitAt u s).defn.bind fun d => d.maps.get j

/-- Granularity in bytes (R46). -/
def granuleBytes : Granularity → Nat
  | .g256 => 256
  | .g4096 => 4096

/-- G·g, a window's absolute address (R46). -/
def windowAddr (w : Window) : Nat := w.base.toNat * granuleBytes w.granularity

/-- L·g, a window's size in bytes (R46). -/
def windowSize (w : Window) : Nat := w.length * granuleBytes w.granularity

/-- The window is defined and LIVE (R31, R43). -/
def isLive (u : UnitId) (i : Fin 4) (s : State) : Bool :=
  match windowAt u i s with
  | some w => w.live
  | none => false

/-- All units, channels, contexts and slots in ascending order. -/
def allUnits : List UnitId := List.finRange 16
def allChans : List ChanId := List.finRange 12
def allCtxs : List CtxId := List.finRange 4
def allSlots : List Slot := List.finRange 32

/-- The channel is open and not HALTED: IDLE, BUSY or STREAMING (R69). -/
def isWorking (c : Channel) : Bool :=
  match c.state with
  | .idle => true
  | .busy => true
  | .streaming => true
  | .closed => false
  | .halted => false

/-- A drained channel has neither active request nor stream binding (R68). -/
def isDrained (c : Channel) : Bool := c.active.isNone && c.binding.isNone

/-- The body in a buffer, if it is occupied. -/
def bufferAt (b : Buf) (c : Channel) : Option (List Byte) :=
  match b with
  | .x => c.bufX
  | .y => c.bufY

/-- A buffer's new content. -/
def setBuffer (b : Buf) (x : Option (List Byte)) (c : Channel) : Channel :=
  match b with
  | .x => { c with bufX := x }
  | .y => { c with bufY := x }

/-- A buffer becomes free. -/
def freeBuffer (b : Buf) (c : Channel) : Channel := setBuffer b none c

/-- The staged request, if any, is dropped without an answer and its buffer becomes free (R71). -/
def dropStaged (c : Channel) : Channel :=
  match c.staged with
  | some b => { freeBuffer b c with staged := none }
  | none => c

/-- The state that follows from an open channel's work (R69); CLOSED and HALTED are kept (R75). -/
def stateOfWork (c : Channel) : ChanState :=
  if isWorking c then
    if c.binding.isSome then .streaming
    else if c.active.isSome || c.staged.isSome then .busy
    else .idle
  else c.state

/-- The channel takes the state of its work. -/
def settleChan (c : Channel) : Channel := { c with state := stateOfWork c }

end Sys2Proof.Machine
end

