-- ==== Sys2Proof/Machine/Flags.lean ====
section
/-! DEFINITION. What the blocks report to the two observers: records to the access trail (R149), occurrences,
flags and freeze triggers to the traffic monitor (R136, R139, R141, R143), and the output lines computed from
them (R146, R160). -/

namespace Sys2Proof.Machine

/-! ### Output lines -/

/-- Some item of the monitor status is set (R133). -/
def statusSet (m : Monitor) : Bool :=
  (List.finRange 8).any (fun i => m.flags.get i) || m.escalated != 0 || m.trailHigh || m.trailWrapped || m.busFault

/-- ALERT (R146, R168). -/
def State.alert (s : State) : Bool := !s.inReset && (s.monitor.freeze.isSome || statusSet s.monitor)

/-- RRDY (R160). -/
def State.rrdy (s : State) : Bool := !s.inReset && !s.replies.rpt.isEmpty

/-- VRDY (R160). -/
def State.vrdy (s : State) : Bool := !s.inReset && !s.replies.svp.isEmpty

/-! ### The trail -/

/-- The monitor sets TRAIL_HIGH (R141). -/
def handTrailHigh (s : State) : State := { s with monitor := { s.monitor with trailHigh := true } }

/-- The monitor sets TRAIL_WRAPPED (R141). -/
def handTrailWrapped (s : State) : State := { s with monitor := { s.monitor with trailWrapped := true } }

/-- The monitor sets BUS_FAULT (R141). -/
def handBusFault (s : State) : State := { s with monitor := { s.monitor with busFault := true } }

/-- The trail after a record: numbered and timed, the oldest removed from a full trail (R149). -/
def appendRecord (t : Trail) (requester : Option Port) (chan : Option ChanId) (grant : Option Slot)
    (unit : Option UnitId) (detail : Detail) : Trail where
  records :=
    (if t.records.length < Config.trailDepth then t.records else t.records.drop 1) ++
      [{ seq := t.next, time := t.clock, requester := requester, chan := chan, grant := grant, unit := unit,
         detail := detail }]
  next := t.next + 1
  clock := t.clock

/-- R149: a record is numbered, timed, appended over a full trail's oldest, and the flags are handed (R151). -/
def writeRecord (requester : Option Port) (chan : Option ChanId) (grant : Option Slot) (unit : Option UnitId)
    (detail : Detail) (s : State) : State :=
  let t := appendRecord s.trail requester chan grant unit detail
  { s with
    trail := t
    monitor := { s.monitor with
      trailWrapped := s.monitor.trailWrapped || !(s.trail.records.length < Config.trailDepth)
      trailHigh := s.monitor.trailHigh || Config.trailHigh ≤ t.records.length } }

/-- A record of a channel's event: its requester and channel are both present. -/
def writeChanRecord (c : ChanId) (grant : Option Slot) (unit : Option UnitId) (detail : Detail) (s : State) : State :=
  writeRecord (some (chanPort c)) (some c) grant unit detail s

/-! ### The freeze and the counters -/

/-- R143: a trigger taken while the freeze is OFF turns it ON with its cause and writes a FREEZE record. -/
def freezeTrigger (cause : FreezeCause) (s : State) : State :=
  match s.monitor.freeze with
  | some _ => s
  | none =>
    writeRecord none none none none (.freeze cause) { s with monitor := { s.monitor with freeze := some cause } }

/-- A report of an occurrence (R136). -/
structure Report where
  event : Event
  port : Option Port
  bus : Option BusId
  unit : Option UnitId

/-- A bus passes a bus filter (R136). -/
def busPasses (f : BusFilter) (b : BusId) : Bool :=
  match f, b with
  | .both, _ => true
  | .ub0, .ub0 => true
  | .ub1, .ub1 => true
  | .ub0, .ub1 => false
  | .ub1, .ub0 => false

/-- A unit number passes a setup's unit filter: the masked match of R2 over 4 bits (R136). -/
def unitPasses (c : Setup) (u : UnitId) : Bool := maskedMatch (BitVec.ofNat 4 u.val) c.unitValue c.unitMask

/-- R136: the three filters; a missing port passes only all three ports, a missing bus only BOTH, a missing unit
only the mask 1111b. -/
def passesFilters (c : Setup) (r : Report) : Bool :=
  (match r.port with
    | some p => c.ports.get p
    | none => c.ports.spt && c.ports.rpt && c.ports.svp) &&
  (match r.bus with
    | some b => busPasses c.bus b
    | none => c.bus == .both) &&
  (match r.unit with
    | some u => unitPasses c u
    | none => c.unitMask == 0xF#4)

/-- While the freeze is ON and COUNT_WHILE_FROZEN is off, no counter is advanced (R136, R138). -/
def countingStopped (m : Monitor) : Bool := m.freeze.isSome && !m.countWhileFrozen

/-- Counter `i` wraps when `n` is added to it (R139). -/
def wraps (m : Monitor) (i : Fin 8) (n : Nat) : Bool := 4294967296 ≤ (m.counters.get i).toNat + n

/-- R139: `amounts` are added to the counters; a wrap sets the overflow flag; flags newly set by this one report
or sample are one trigger if a counter among them has escalate set, and the trigger names every flag newly set
(log 18). -/
def addCounts (amounts : Fin 8 → Nat) (s : State) : State :=
  let m := s.monitor
  let newly : Fin 8 → Bool := fun i => wraps m i (amounts i) && !m.flags.get i
  let s1 := { s with monitor := { m with
    counters := Vector.ofFn fun i => m.counters.get i + BitVec.ofNat 32 (amounts i)
    flags := Vector.ofFn fun i => m.flags.get i || wraps m i (amounts i) } }
  if (List.finRange 8).any fun i => newly i && (m.setups.get i).escalate then
    freezeTrigger (.counter (packBits 8 newly)) s1
  else s1

/-- R136: an occurrence advances by 1 every enabled counter of its event whose filters it passes. -/
def report (r : Report) (s : State) : State :=
  if countingStopped s.monitor then s
  else
    addCounts (fun i =>
      let c := s.monitor.setups.get i
      if c.enable && c.event == r.event && passesFilters c r then 1 else 0) s

/-- R141: the grant table hands over a grant whose budget overflowed; a new entry is a freeze trigger with
FREEZE_ON_GRANT on. -/
def escalateGrant (g : Slot) (s : State) : State :=
  if s.monitor.escalated.getLsbD g.val then s
  else
    let s1 := { s with monitor := { s.monitor with escalated := s.monitor.escalated ||| BitVec.twoPow 32 g.val } }
    if s.monitor.freezeOnGrant then freezeTrigger (.grant g) s1 else s1

end Sys2Proof.Machine
end

