-- ==== Sys2Proof/Machine/Channels.lean ====
section
/-! DEFINITION. Reply queues (R161), halting (R82) and the completion of a channel's active request (R75, R76). -/

namespace Sys2Proof.Machine

/-- R82: an IDLE, BUSY or STREAMING channel becomes HALTED: its staged request is dropped, the cause is set,
clear pending is no, its work goes on. -/
def haltEntry (c : ChanId) (cause : HaltCause) (s : State) : State :=
  let ch := chanAt c s
  if isWorking ch then
    setChan c { dropStaged ch with state := .halted, haltCause := some cause, clearPending := false } s
  else s

/-- The port's reply queue holds fewer than 12 replies (R161). -/
def replyRoom (p : Port) (s : State) : Bool := (repliesAt p s).length < Config.replyDepth

/-- A reply joins the tail of its port's queue. -/
def pushReply (r : Reply) (s : State) : State :=
  setReplies (chanPort r.chan) (repliesAt (chanPort r.chan) s ++ [r]) s

/-- R161: a reply offered to a full queue is dropped and reported; if it answered an admitted request, its
channel is halted (R82). -/
def offerReply (r : Reply) (admitted : Bool) (s : State) : State :=
  if replyRoom (chanPort r.chan) s then pushReply r s
  else
    let s1 := report ⟨.replyDropped, some (chanPort r.chan), none, none⟩ s
    if admitted then haltEntry r.chan .replyDropped s1 else s1

/-- An answer the channel engine gives by itself (R70): CLAMPED clear, empty payload, not an admitted request's. -/
def answerOwn (c : ChanId) (b : Buf) (kind : Byte) (st : Status) (s : State) : State :=
  offerReply { chan := c, buf := b, kind := kind, status := st, clamped := false, payload := [] } false s

/-- A supervisor command's reply (R162). -/
def answerCommand (env : Envelope) (code : Byte) (st : Status) (payload : List Byte) (s : State) : State :=
  offerReply { chan := chanOf .svp env.idx, buf := env.buf, kind := code, status := st, clamped := false,
               payload := payload } false s

/-- The active request and its buffer are gone, and the channel takes its next state (R75 steps 2 and 3).
The promotion of a staged request is the step STAGED_REQUEST_PROMOTION (log 1). -/
def clearActive (b : Buf) (ch : Channel) : Channel := settleChan { freeBuffer b ch with active := none }

/-- R75: the active request of a channel completes with a result: the reply is offered, or discarded in CLOSED
and HALTED; then its buffer is freed and the channel's next state is set. -/
def completeActive (c : ChanId) (st : Status) (payload : List Byte) (s : State) : State :=
  match (chanAt c s).active with
  | none => s
  | some a =>
    let s1 :=
      if isWorking (chanAt c s) then
        offerReply { chan := c, buf := a.buf, kind := kindCode a.kind, status := st, clamped := a.clamped,
                     payload := payload } true s
      else s
    setChan c (clearActive a.buf (chanAt c s1)) s1

end Sys2Proof.Machine
end

