-- ==== Sys2Proof/Machine/Units.lean ====
section
/-! DEFINITION. Placing entries on units and buses (R51, R118, R119), the tests of a unit's claim (R29), and the
claim timer (R58). -/

namespace Sys2Proof.Machine

/-- The channel a source stands for, if it stands for one (R50). -/
def sourceChan : Source → Option ChanId
  | .channel c => some c
  | .stream _ c => some c
  | .mapRow c => some c
  | .base => none

/-- The port an entry's occurrences carry (R121). -/
def sourcePort (src : Source) : Option Port := (sourceChan src).map chanPort

/-- A channel request of R50: one that counts towards the four channel places. -/
def isChannelRequest (e : Entry) : Bool :=
  match e.source with
  | .channel _ => true
  | .stream _ _ => true
  | .mapRow _ => false
  | .base => false

/-- The priority class of a request message (R120). -/
def entryClass (e : Entry) : Nat :=
  match sourceChan e.source with
  | none => 1
  | some c => if chanPort c = .svp then 2 else 3

/-- The outstanding entry `e` of unit `u` enters its bus's transmit queue and takes the unit's tag (R118, R119). -/
def enterQueue (u : UnitId) (e : Entry) (s : State) : State :=
  let un := unitAt u s
  match un.defn with
  | none => s
  | some d =>
    let q : QEntry := { unit := u, msg := e.msg, source := some e.source, cls := entryClass e, entered := s.moment,
                        tag := un.tag, reqId := d.reqId }
    let b := busAt d.bus s
    setUnit u { un with tag := un.tag + 1 } (setBus d.bus { b with queue := b.queue ++ [q] } s)

/-- `e` becomes the outstanding entry of unit `u` and is handed to the transmit queue (R51). -/
def makeOutstanding (u : UnitId) (e : Entry) (s : State) : State :=
  enterQueue u e (setUnit u { unitAt u s with out := some e } s)

/-- R51: an entry placed on a unit becomes the outstanding entry, joins the tail of the wait list, or, being a
base request, its head. A unit whose promotion is due (log 1) has its wait list served first. -/
def placeEntry (u : UnitId) (e : Entry) (s : State) : State :=
  let un := unitAt u s
  if un.out.isNone && un.wait.isEmpty then makeOutstanding u e s
  else
    setUnit u { un with wait := if e.source = .base then e :: un.wait else un.wait ++ [e] } s

/-- R52 step 3: the head of the wait list becomes the outstanding entry. -/
def promoteWait (u : UnitId) (s : State) : State :=
  let un := unitAt u s
  match un.out, un.wait with
  | none, e :: rest => makeOutstanding u e (setUnit u { un with wait := rest } s)
  | _, _ => s

/-! ### Claims: tests and timer -/

/-- The channel holds the claim in ATTENDED or FLASH. -/
def holdsClaim (c : ChanId) (cl : Claim) : Bool :=
  cl.holder == some c && (cl.state == .attended || cl.state == .flash)

/-- R29: the unit is reserved by a channel other than `c`. -/
def reservedByOther (c : ChanId) (cl : Claim) : Bool :=
  cl.holder != some c &&
    (match cl.state with
      | .flash => true
      | .entering => cl.target == some .flash || cl.prior == some .flash
      | .leaving => cl.left == some .flash
      | .free => false
      | .attended => false)

/-- R58: the claim timer restarts from the full keep period while it runs, in ATTENDED and FLASH. -/
def restartClaimTimer (u : UnitId) (s : State) : State :=
  let un := unitAt u s
  if un.claim.state == .attended || un.claim.state == .flash then
    setUnit u { un with claimTimer := some un.claim.keep } s
  else s

/-- The claim state of a held mode. -/
def stateOfMode : Mode → ClaimState
  | .attended => .attended
  | .flash => .flash

end Sys2Proof.Machine
end

