-- ==== Sys2Proof/Machine/Streams.lean ====
section
/-! DEFINITION. The stream engine: blocks (R88 to R90), their completion (R91, R92), and every end of a stream
(R93 to R98). -/

namespace Sys2Proof.Machine

/-- What the hand-off of an admitted request answers (R38, R72). -/
inductive HandOff where
  /-- answered at hand-off -/
  | answered (st : Status) (payload : List Byte) (clamped : Bool)
  /-- a BLOCK answered NOT_READY: the buffer mark is set back (R72) -/
  | returned (payload : List Byte)
  /-- a BLOCK answered OVERRUN: the channel is then halted (R82) -/
  | overrun (payload : List Byte)
  /-- the request stays the channel's active request -/
  | pends (place : Place) (clamped : Bool)

/-- The status of a CONCLUDED stream (R86). -/
def concludedStatus : Concluded → Status
  | .failed => .streamFailed
  | .aborted => .streamAborted
  | .withdrawn => .withdrawn

/-- The ending status of a stream (R92, R93): the concluded status, or DONE when confirmed equals T, else SHORT. -/
def endingStatus (x : Stream) : Status :=
  match x.concluded with
  | some c => concludedStatus c
  | none => if x.confirmed = x.total then .done else .short

/-- The payload of an answer to STREAM END (confirmed, T) or STREAM ABORT (confirmed) (11.3). -/
def endingPayload (x : Stream) : StreamEnding → List Byte
  | .streamEnd => leBytes 4 x.confirmed ++ leBytes 4 x.total
  | .streamAbort => leBytes 4 x.confirmed

/-- The pending STREAM END or STREAM ABORT is answered with the stream's ending status, and release becomes yes
(R91 to R93). -/
def answerEnding (k : CtxId) (s : State) : State :=
  match streamAt k s with
  | none => s
  | some x =>
    match x.endPending with
    | none => s
    | some e =>
      completeActive x.chan (endingStatus x) (endingPayload x e)
        (setStream k (some { x with release := true, endPending := none }) s)

/-- R96, R97: slot B is discarded, the idle timer stops, the context becomes CONCLUDED with the status; a pending
end is answered at once when slot A is free. A CONCLUDED context keeps its status. -/
def concludeStream (k : CtxId) (how : Concluded) (s : State) : State :=
  match streamAt k s with
  | none => s
  | some x =>
    if x.state = .concluded then s
    else
      let s1 := setStream k (some { x with state := .concluded, concluded := some how, slotB := [], idle := none }) s
      if x.slotA.isNone then answerEnding k s1 else s1

/-- R98: the context is withdrawn with its channel: concluded WITHDRAWN or its status kept, release yes, a pending
end answered at once. -/
def withdrawStream (k : CtxId) (s : State) : State :=
  match streamAt k s with
  | none => s
  | some x =>
    let y := if x.state = .concluded then x
      else { x with state := .concluded, concluded := some .withdrawn, slotB := [], idle := none }
    answerEnding k (setStream k (some { y with release := true }) s)

/-- The swap rule's condition (R89). -/
def swapDue (x : Stream) : Bool :=
  x.slotA.isNone &&
    (x.slotB.length == x.size ||
      (x.accepted == x.total && !x.slotB.isEmpty) ||
      (x.state == .draining && !x.slotB.isEmpty))

/-- The absolute address of a stream's byte at an offset from its start: G·g + a + offset (R89). -/
def streamAddr (x : Stream) (offset : Nat) (s : State) : Nat :=
  match windowAt x.unit x.window s with
  | some w => windowAddr w + x.start + offset
  | none => x.start + offset

/-- The entry of a stream's block (R89 step 3). -/
def blockEntry (k : CtxId) (x : Stream) (s : State) : Entry where
  source := .stream k x.chan
  msg := .memoryStore (streamAddr x x.issued s) x.slotB true
  grant := some x.grant
  window := some x.window
  keep := 0

/-- R89: slot B moves to slot A and is issued as a block whenever the swap rule allows. -/
def swapSlots (k : CtxId) (s : State) : State :=
  match streamAt k s with
  | none => s
  | some x =>
    if swapDue x then
      let y := { x with
        slotA := some ⟨x.issued, x.slotB⟩
        issued := x.issued + x.slotB.length
        slotB := [] }
      restartClaimTimer x.unit (placeEntry x.unit (blockEntry k x s) (setStream k (some y) s))
    else s

/-- R88: a BLOCK of bytes handed to a FILLING context, and R90: to one that is not. -/
def takeBlock (k : CtxId) (data : List Byte) (s : State) : State × HandOff :=
  match streamAt k s with
  | none => (s, .answered .wrongState [] false)
  | some x =>
    match x.state with
    | .draining => (s, .answered .wrongState (leBytes 4 x.accepted) false)
    | .concluded =>
      (setStream k (some { x with release := true }) s,
        .answered (endingStatus x) (leBytes 4 x.confirmed) false)
    | .filling =>
      let y := { x with idle := some Config.idleMs }
      let room := if x.slotA.isSome then x.size - x.slotB.length else 2 * x.size - x.slotB.length
      if x.total < x.accepted + data.length then
        (setStream k (some y) s, .overrun (leBytes 4 x.accepted))
      else if room < data.length then
        (setStream k (some y) s, .returned (leBytes 4 x.accepted))
      else
        let accepted := x.accepted + data.length
        let bytes := x.slotB ++ data
        let s1 := swapSlots k (setStream k (some { y with accepted := accepted, slotB := bytes.take x.size }) s)
        let s2 :=
          match bytes.drop x.size, streamAt k s1 with
          | [], _ => s1
          | _, none => s1
          | rest, some z => swapSlots k (setStream k (some { z with slotB := z.slotB ++ rest }) s1)
        (s2, .answered .done (leBytes 4 accepted) false)

/-- R93: a STREAM END handed to a context. -/
def takeStreamEnd (k : CtxId) (s : State) : State × HandOff :=
  match streamAt k s with
  | none => (s, .answered .wrongState [] false)
  | some x =>
    match x.state with
    | .filling =>
      if x.slotA.isNone && x.slotB.isEmpty then
        (setStream k (some { x with release := true, idle := none }) s,
          .answered (endingStatus x) (endingPayload x .streamEnd) false)
      else
        (swapSlots k (setStream k
            (some { x with state := .draining, idle := none, endPending := some .streamEnd }) s),
          .pends (.stream k) false)
    | .draining => (s, .answered .wrongState [] false)
    | .concluded =>
      if x.slotA.isNone then
        (setStream k (some { x with release := true }) s,
          .answered (endingStatus x) (endingPayload x .streamEnd) false)
      else
        (setStream k (some { x with endPending := some .streamEnd }) s, .pends (.stream k) false)

/-- R94: a STREAM ABORT handed to a context. -/
def takeStreamAbort (k : CtxId) (s : State) : State × HandOff :=
  match streamAt k s with
  | none => (s, .answered .wrongState [] false)
  | some x =>
    let y :=
      match x.state with
      | .filling => { x with state := .concluded, concluded := some .aborted, slotB := [], idle := none }
      | .draining => x
      | .concluded => x
    match x.state with
    | .draining => (s, .answered .wrongState [] false)
    | _ =>
      if x.slotA.isNone then
        (setStream k (some { y with release := true }) s,
          .answered (endingStatus y) (endingPayload y .streamAbort) false)
      else
        (setStream k (some { y with endPending := some .streamAbort }) s, .pends (.stream k) false)

/-- What an entry completes with (R52): the unit's answer, or a withdrawal or bus status. -/
inductive Result where
  | positive (data : List Byte)
  | negative (reason : Byte)
  | timeout
  | ended (st : Status)

/-- The status a channel receives for a result (R52). -/
def resultStatus : Result → Status
  | .positive _ => .done
  | .negative _ => .unitNegative
  | .timeout => .timeout
  | .ended st => st

/-- The payload a channel receives for a result (R52). -/
def resultPayload : Result → List Byte
  | .positive data => data
  | .negative reason => [reason]
  | .timeout => []
  | .ended _ => []

/-- How a failed block concludes its stream (R91): bus ends and unit failures STREAM_FAILED, withdrawals
STREAM_ABORTED. -/
def failureConcludes : Result → Concluded
  | .ended .interlock => .aborted
  | .ended .notClaimed => .aborted
  | _ => .failed

/-- R91, R92: the block in slot A completes. -/
def blockDone (k : CtxId) (r : Result) (s : State) : State :=
  match streamAt k s with
  | none => s
  | some x =>
    match x.slotA with
    | none => s
    | some a =>
      match r, x.state with
      | .positive _, .concluded =>
        answerEnding k (setStream k (some { x with slotA := none, confirmed := x.confirmed + a.bytes.length }) s)
      | .positive _, _ =>
        let s1 := swapSlots k
          (setStream k (some { x with slotA := none, confirmed := x.confirmed + a.bytes.length }) s)
        match streamAt k s1 with
        | none => s1
        | some y =>
          if y.state = .draining && y.slotA.isNone && y.slotB.isEmpty then answerEnding k s1 else s1
      | _, .concluded => answerEnding k (setStream k (some { x with slotA := none }) s)
      | _, _ => concludeStream k (failureConcludes r) (setStream k (some { x with slotA := none }) s)

/-- R95: the idle timer expires in FILLING. -/
def idleExpires (k : CtxId) (s : State) : State :=
  match streamAt k s with
  | none => s
  | some x =>
    match x.idle with
    | none => s
    | some _ =>
      match x.policy with
      | .strict => concludeStream k .aborted s
      | .lenient =>
        report ⟨.streamGap, some (chanPort x.chan), unitBus x.unit s, some x.unit⟩
          (setStream k (some { x with idle := some Config.idleMs }) s)

/-- The context's release is yes and slot A is free (R92). -/
def freeingDue (x : Stream) : Bool := x.release && x.slotA.isNone

/-- R92: freeing writes the second STREAM record, clears the channel's binding (R73) and frees the context. -/
def freeStream (k : CtxId) (s : State) : State :=
  match streamAt k s with
  | none => s
  | some x =>
    if freeingDue x then
      let s1 := writeChanRecord x.chan (some x.grant) (some x.unit)
        (.stream x.window x.start x.total (some (x.confirmed, endingStatus x))) s
      setStream k none (setChan x.chan (settleChan { chanAt x.chan s1 with binding := none }) s1)
    else s

/-- The lowest-numbered free context (R87). -/
def freeCtx (s : State) : Option CtxId := allCtxs.find? fun k => (streamAt k s).isNone

end Sys2Proof.Machine
end

