-- ==== Sys2Proof/Machine/Maps.lean ====
section
/-! DEFINITION. The map engine: jobs taken and started (R102, R103), checks and row issue (R104, R105), row
completion (R106 to R109, R111), and the end of jobs (R110, R112 to R114). -/

namespace Sys2Proof.Machine

/-- The payload of a job's answer (R110): the rectangle and cells of a READ or the run count of a WRITE that ends
DONE; done and planned otherwise, with the unit's reason byte for UNIT_NEGATIVE. -/
def jobPayload (j : Job) (st : Status) (reason : List Byte) : List Byte :=
  match st with
  | .done =>
    match j.kind with
    | .read => [byte j.r0, byte j.c0, byte j.width, byte j.height] ++ j.assembly
    | .write => [byte j.plan.length]
  | _ => [byte j.done, byte j.plan.length] ++ reason

/-- The answer of a job that ends (R110 step 1). -/
def answerJob (j : Job) (st : Status) (reason : List Byte) (s : State) : State :=
  completeActive j.chan st (jobPayload j st reason) s

/-- The engine's places filled from an ordered list of jobs: the first is active, the rest are queued (R100,
R103). -/
def placesOf (jobs : List Job) (slot : Option RowSlot) : MapEngine where
  active := jobs.head?
  queue := jobs.tail
  slot := slot

/-- The jobs held, active and queued, oldest first (R100). -/
def jobsOf (m : MapEngine) : List Job := m.active.toList ++ m.queue

/-- The row slot after the active job's end: its row request becomes an orphan (R110 step 2). -/
def orphanSlot (m : MapEngine) : Option RowSlot := m.slot.map fun r => { r with orphan := true }

/-- Every job for which `p` holds ends with a status. R110 orders the steps of one job's end; among several jobs that
one event ends, the model answers the active one first and then the queued ones in the queue's order (DESIGN CHOICE,
log 17). An active job's issued row becomes an orphan; the queue's head enters an empty active place. -/
def endJobs (p : Job → Bool) (st : Status) (s : State) : State :=
  let m := s.map
  let slot := match m.active with
    | some j => if p j && j.issuing then orphanSlot m else m.slot
    | none => m.slot
  let s1 := ((jobsOf m).filter p).foldl (fun s j => answerJob j st [] s) s
  setMap (placesOf ((jobsOf m).filter fun j => !p j) slot) s1

/-- R110 for the active job alone, whose row request has completed or was never issued. -/
def endActive (j : Job) (st : Status) (reason : List Byte) (s : State) : State :=
  let s1 := answerJob j st reason s
  setMap (placesOf s1.map.queue s1.map.slot) s1

/-- The entry of a job's row request (R105). -/
def rowEntry (j : Job) (r : RowReq) : Entry where
  source := .mapRow j.chan
  msg := match j.kind with
    | .read => .memoryFetch r.addr r.len
    | .write => .memoryStore r.addr r.data false
  grant := some j.grant
  window := some j.window
  keep := 0

/-- R104, R105: the active job's checks, and the issue of its next row request. -/
def issueRow (s : State) : State :=
  match s.map.active with
  | none => s
  | some j =>
    let cl := (unitAt j.unit s).claim
    if reservedByOther j.chan cl then endActive j .held [] s
    else if j.kind == .write && !holdsClaim j.chan cl then endActive j .notClaimed [] s
    else
      match j.plan[j.done]? with
      | none => s
      | some r =>
        placeEntry j.unit (rowEntry j r)
          (setMap { s.map with active := some { j with issuing := true }, slot := some ⟨j.unit, false⟩ } s)

/-- The job's record after a POSITIVE row (R106, R107). -/
def jobAfterRow (j : Job) (data : List Byte) : Job :=
  { j with
    done := j.done + 1
    assembly := match j.kind with
      | .read => j.assembly ++ data
      | .write => j.assembly
    issuing := false }

/-- R106 to R109, R111: the row request in the row slot completes. -/
def rowDone (r : Result) (s : State) : State :=
  match s.map.slot with
  | none => s
  | some slot =>
    match slot.orphan, s.map.active with
    | true, _ => setMap { s.map with slot := none } s
    | false, none => setMap { s.map with slot := none } s
    | false, some j =>
      match r with
      | .positive data =>
        let j1 := jobAfterRow j data
        let s1 := setMap { s.map with active := some j1, slot := none } s
        if j1.done = j1.plan.length then endActive j1 .done [] s1 else issueRow s1
      | .negative reason =>
        let j1 := { j with issuing := false }
        endActive j1 .unitNegative [reason] (setMap { s.map with active := some j1, slot := none } s)
      | .timeout =>
        let j1 := { j with issuing := false }
        endActive j1 .timeout [] (setMap { s.map with active := some j1, slot := none } s)
      | .ended st =>
        let j1 := { j with issuing := false }
        endActive j1 st [] (setMap { s.map with active := some j1, slot := none } s)

/-- A job with rows to issue stands in the active place with no row request, and the row slot is free (R103). -/
def mapStartDue (m : MapEngine) : Bool :=
  match m.active, m.slot with
  | some j, none => !j.issuing && j.done < j.plan.length
  | _, _ => false

/-- R103: the started job makes its checks and issues its first row request once the row slot is free. -/
def startJob (s : State) : State := if mapStartDue s.map then issueRow s else s

/-- R102: an admitted job becomes the active job of an empty engine, or joins the queue's tail. -/
def takeJob (j : Job) (s : State) : State := setMap (placesOf (jobsOf s.map ++ [j]) s.map.slot) s

end Sys2Proof.Machine
end

