-- ==== Sys2Proof/Machine/Claims.lean ====
section
/-! DEFINITION. The completion and withdrawal of a unit's entries (R52, R53, R122) and the life of a claim:
entering (R55, R56), leaving (R61 to R64), and the end of a bus's work (R66). -/

namespace Sys2Proof.Machine

/-- A claim becomes FREE and both its timers stop (R55, R61, R66). -/
def freeClaim (u : UnitId) (s : State) : State :=
  setUnit u { unitAt u s with claim := Claim.free, claimTimer := none, presence := none } s

/-- The answer to the MODE CLAIM of a claim that went LEAVING while ENTERING (R63). -/
def leavingAnswer (reason : Option ClaimReason) : Status :=
  match reason with
  | some .interlock => .interlock
  | _ => .withdrawn

/-- The claim of `cl` entered in mode `m` (R55, R56). -/
def enteredClaim (cl : Claim) (m : Mode) (keep : Nat) : Claim :=
  { cl with state := stateOfMode m, target := none, prior := none, keep := keep }

/-- The mode an ENTERING claim enters: its target (R54). -/
def targetMode (cl : Claim) : Mode := cl.target.getD .attended

/-- R55, R56: a MODE ENTER of channel `c` completes by the unit's POSITIVE: the claim becomes the target mode. -/
def modeEnterPositive (u : UnitId) (c : ChanId) (keep : Nat) (s : State) : State :=
  let un := unitAt u s
  let m := targetMode un.claim
  let changed := un.claim.prior.isSome
  let s1 := setUnit u { un with
    claim := enteredClaim un.claim m keep
    claimTimer := some keep
    presence := if changed then un.presence else some Config.presenceMs } s
  writeChanRecord c un.claim.grant (some u) (.claimStart m changed) (completeActive c .done [] s1)

/-- R55, R56: a MODE ENTER completes NEGATIVE or TIMEOUT: the claim returns to FREE, or to its prior mode with the
keep period held before. -/
def modeEnterFails (u : UnitId) (s : State) : State :=
  let un := unitAt u s
  match un.claim.prior with
  | none => freeClaim u s
  | some m =>
    setUnit u { un with
      claim := enteredClaim un.claim m un.claim.keep
      claimTimer := some un.claim.keep } s

/-- R55, R56, R63: the MODE ENTER of channel `c` for a keep period completes with a result. -/
def modeEnterDone (u : UnitId) (c : ChanId) (keep : Nat) (r : Result) (s : State) : State :=
  match r with
  | .ended st => completeActive c st [] s
  | .positive _ =>
    if (unitAt u s).claim.state = .entering then modeEnterPositive u c keep s
    else completeActive c (leavingAnswer (unitAt u s).claim.reason) [] s
  | .negative reason =>
    if (unitAt u s).claim.state = .entering then completeActive c .unitNegative [reason] (modeEnterFails u s)
    else completeActive c (leavingAnswer (unitAt u s).claim.reason) [] s
  | .timeout =>
    if (unitAt u s).claim.state = .entering then completeActive c .timeout [] (modeEnterFails u s)
    else completeActive c (leavingAnswer (unitAt u s).claim.reason) [] s

/-- The CLAIM_END record of the claim `cl` (R61 step 3, R66 step 3). -/
def writeClaimEnd (u : UnitId) (cl : Claim) (reason : ClaimReason) (answered : Bool) (s : State) : State :=
  writeRecord (cl.holder.map chanPort) cl.holder cl.grant (some u) (.claimEnd reason answered) s

/-- The pending MODE RELEASE is answered DONE (R61 step 4, R66 step 4). -/
def answerRelease (cl : Claim) (s : State) : State :=
  match cl.releasePending, cl.holder with
  | true, some h => completeActive h .done [] s
  | _, _ => s

/-- R61: the base request of a LEAVING claim completes and the claim becomes FREE. -/
def baseDone (u : UnitId) (answered : Bool) (s : State) : State :=
  let cl := (unitAt u s).claim
  match cl.state, cl.reason with
  | .leaving, some reason => answerRelease cl (writeClaimEnd u cl reason answered (freeClaim u s))
  | _, _ => s

/-- R52 step 1: an entry's result is handed to its source. -/
def deliverResult (u : UnitId) (e : Entry) (r : Result) (s : State) : State :=
  match e.source with
  | .channel c =>
    match e.msg with
    | .modeEnter _ => modeEnterDone u c e.keep r s
    | _ => completeActive c (resultStatus r) (resultPayload r) s
  | .stream k _ => blockDone k r s
  | .mapRow _ => rowDone r s
  | .base =>
    match r with
    | .positive _ => baseDone u true s
    | .negative _ => baseDone u true s
    | .timeout => baseDone u false s
    | .ended _ => s

/-- R52 steps 1 and 2: the outstanding entry completes and is removed. Step 3 is the step WAIT_LIST_PROMOTION
(log 1). -/
def completeOut (u : UnitId) (r : Result) (s : State) : State :=
  match (unitAt u s).out with
  | none => s
  | some e =>
    let s1 := deliverResult u e r s
    setUnit u { unitAt u s1 with out := none, awaited := none } s1

/-- The unit's request message is the message in transmission of its bus (R121). -/
def inTransmission (u : UnitId) (s : State) : Bool :=
  match unitBus u s with
  | none => false
  | some b =>
    match (busAt b s).tx with
    | some t => t.entry.unit == u && t.entry.source.isSome
    | none => false

/-- The outstanding entry has been begun: in transmission, or awaiting its reply (R121, R122). -/
def isBegun (u : UnitId) (s : State) : Bool := (unitAt u s).awaited.isSome || inTransmission u s

/-- The unit's request message leaves its bus's transmit queue (R122). -/
def unqueue (u : UnitId) (s : State) : State :=
  match unitBus u s with
  | none => s
  | some b =>
    let bus := busAt b s
    setBus b { bus with queue := bus.queue.filter fun q => !(q.unit == u && q.source.isSome) } s

/-- R53: the waiting entries for which `p` holds are taken out of the list and completed with a status; the order
of the others is kept. -/
def removeWaiting (u : UnitId) (p : Entry → Bool) (st : Status) (s : State) : State :=
  let w := (unitAt u s).wait
  let s1 := setUnit u { unitAt u s with wait := w.filter fun e => !p e } s
  (w.filter p).foldl (fun s e => deliverResult u e (.ended st) s) s1

/-- R53, R122: an outstanding entry not yet begun for which `p` holds is withdrawn with a status. -/
def withdrawOut (u : UnitId) (p : Entry → Bool) (st : Status) (s : State) : State :=
  match (unitAt u s).out with
  | none => s
  | some e => if p e && !isBegun u s then completeOut u (.ended st) (unqueue u s) else s

/-- R53: the entries of a unit for which `p` holds are withdrawn wherever they have not been begun, the waiting ones first
(DESIGN CHOICE, log 17). -/
def withdrawEntries (u : UnitId) (p : Entry → Bool) (st : Status) (s : State) : State :=
  withdrawOut u p st (removeWaiting u p st s)

/-- The entry is a MODE ENTER. -/
def isModeEnter (e : Entry) : Bool :=
  match e.msg with
  | .modeEnter _ => true
  | _ => false

/-- The entry stores to the unit's memory. -/
def isStore (e : Entry) : Bool :=
  match e.msg with
  | .memoryStore _ _ _ => true
  | _ => false

/-- The entry's message is FAULT ERASE or ROUTINE RUN. -/
def isActuation (e : Entry) : Bool :=
  match e.msg with
  | .faultErase => true
  | .routineRun _ _ => true
  | _ => false

/-- Channel requests and map runs of holder `h` that need the claim (R64). -/
def needsClaimOf (h : ChanId) (e : Entry) : Bool :=
  sourceChan e.source == some h && (isStore e || isActuation e)

/-- R64: the former holder's claim-needing work on the unit ends, but for the waiting entries `spared`: the single requests
that the end of their own grant reached before the claim's departure did (R17, R64's last paragraph: log 33). -/
def endHolderWork (spared : Entry → Bool) (u : UnitId) (h : ChanId) (s : State) : State :=
  let s1 := removeWaiting u (fun e => needsClaimOf h e && !spared e) .notClaimed s
  let s2 := endJobs (fun j => j.kind == .write && j.chan == h && j.unit == u) .notClaimed s1
  allCtxs.foldl (fun s k =>
    match streamAt k s with
    | some x => if x.chan = h ∧ x.unit = u then concludeStream k .aborted s else s
    | none => s) s2

/-- The base request (R50, R61). -/
def baseEntry : Entry where
  source := .base
  msg := .modeBase
  grant := none
  window := none
  keep := 0

/-- The left mode of R61 step 1. -/
def leftMode (cl : Claim) : Mode :=
  match cl.state with
  | .flash => .flash
  | .entering => if cl.target == some .flash || cl.prior == some .flash then .flash else .attended
  | _ => .attended

/-- The claim is in a state that a cause of 3.4 moves: ENTERING, ATTENDED or FLASH. -/
def canLeave (cl : Claim) : Bool :=
  cl.state == .entering || cl.state == .attended || cl.state == .flash

/-- The claim gone LEAVING (R61 step 1); the holder and grant stay. -/
def leavingClaim (cl : Claim) (reason : ClaimReason) : Claim :=
  { cl with state := .leaving, reason := some reason, left := some (leftMode cl), target := none, prior := none }

/-- R61: a claim in ENTERING, ATTENDED or FLASH goes LEAVING with a reason: its fields are set, its timer stops,
an unbegun MODE ENTER is withdrawn (R63), the base request is placed, and where a mode was held the former
holder's work ends, but for the waiting entries `spared` (R64, R17). A claim in another state is unchanged. -/
def leaveClaimSparing (spared : Entry → Bool) (u : UnitId) (reason : ClaimReason) (s : State) : State :=
  let un := unitAt u s
  let cl := un.claim
  if canLeave cl then
    let s1 := setUnit u { un with claim := leavingClaim cl reason, claimTimer := none } s
    let s2 := if cl.state = .entering then withdrawEntries u isModeEnter (leavingAnswer (some reason)) s1 else s1
    let s3 := placeEntry u baseEntry s2
    match cl.holder with
    | some h => if cl.state = .entering && cl.prior.isNone then s3 else endHolderWork spared u h s3
    | none => s3
  else s

/-- R61: a claim leaves for a cause that spares no entry. -/
def leaveClaim (u : UnitId) (reason : ClaimReason) (s : State) : State :=
  leaveClaimSparing (fun _ => false) u reason s

/-- R66: a bus leaves ACTIVE: the unit's entries complete with the bus status, its claim becomes FREE at once with a
CLAIM_END record, and a pending MODE RELEASE is answered. R66 gives no order among the entries: the model completes the
outstanding one first and then the waiting ones in the wait list's order (DESIGN CHOICE, log 17). -/
def endUnitWork (u : UnitId) (reason : ClaimReason) (st : Status) (s : State) : State :=
  let un := unitAt u s
  let s1 := setUnit u { un with out := none, wait := [], awaited := none, reasm := none } s
  let s2 := (un.out.toList ++ un.wait).foldl (fun s e => deliverResult u e (.ended st) s) s1
  let cl := (unitAt u s2).claim
  if cl.state = .free then s2
  else answerRelease cl (writeClaimEnd u cl reason false (freeClaim u s2))

/-- R58: the claim timer expires. -/
def claimTimerExpires (u : UnitId) (s : State) : State :=
  let un := unitAt u s
  match un.claimTimer with
  | none => s
  | some _ =>
    let s1 := leaveClaim u .lapsed s
    report ⟨.claimLapses, un.claim.holder.map chanPort, unitBus u s, some u⟩ s1

/-- A PRESENCE frame for the unit stands in the bus's queue (R60). -/
def presenceQueued (u : UnitId) (b : Bus) : Bool := b.queue.any fun q => q.unit == u && q.source.isNone

/-- The unit table asks the bus controller to queue a PRESENCE frame, tag 0, class 1 (R60, R118 to R120). -/
def queuePresence (u : UnitId) (s : State) : State :=
  match (unitAt u s).defn with
  | none => s
  | some d =>
    let b := busAt d.bus s
    let q : QEntry := { unit := u, msg := .presence, source := none, cls := 1, entered := s.moment, tag := 0,
                        reqId := d.reqId }
    if presenceQueued u b then s else setBus d.bus { b with queue := b.queue ++ [q] } s

/-- R60: the presence timer expires. -/
def presenceExpires (u : UnitId) (s : State) : State :=
  let un := unitAt u s
  match un.presence with
  | none => s
  | some _ =>
    if un.claim.state = .leaving then setUnit u { un with presence := none } s
    else queuePresence u (setUnit u { un with presence := some Config.presenceMs } s)

end Sys2Proof.Machine
end

