-- ==== Sys2Proof/Machine/Operands.lean ====
section
/-! DEFINITION. Operands: the fields of the seventeen request kinds (11.2, with the form faults of R23) and of the
supervisor commands (11.6, with the lengths of R162). -/

namespace Sys2Proof.Machine

/-! ### Requests -/

/-- A well-formed request with its fields. -/
inductive Request where
  | channelOpen
  | channelClose
  | itemRead (u : UnitId) (id : BitVec 16)
  | faultRead (u : UnitId)
  | faultClear (u : UnitId)
  | routine (u : UnitId) (id : BitVec 16) (arg : List Byte)
  | windowRead (u : UnitId) (i : Fin 4) (offset : Nat) (length : Nat)
  | windowWrite (u : UnitId) (i : Fin 4) (offset : Nat) (data : List Byte)
  | mapRead (u : UnitId) (j : Fin 4) (r0 c0 w1 h1 : Nat)
  | mapWrite (u : UnitId) (j : Fin 4) (r0 c0 w1 h1 : Nat) (key mask : BitVec 32) (cells : List Byte)
  | modeClaim (u : UnitId) (mode : Mode) (count : Nat)
  | keep (u : UnitId)
  | modeRelease (u : UnitId)
  | streamOpen (u : UnitId) (i : Fin 4) (policy : GapPolicy) (size start total : Nat)
  | block (data : List Byte)
  | streamEnd
  | streamAbort
  deriving DecidableEq, Repr

/-- The kind of a request. -/
def Request.kind : Request → ReqKind
  | .channelOpen => .channelOpen
  | .channelClose => .channelClose
  | .itemRead _ _ => .itemRead
  | .faultRead _ => .faultRead
  | .faultClear _ => .faultClear
  | .routine _ _ _ => .routine
  | .windowRead _ _ _ _ => .windowRead
  | .windowWrite _ _ _ _ => .windowWrite
  | .mapRead _ _ _ _ _ _ => .mapRead
  | .mapWrite _ _ _ _ _ _ _ _ _ => .mapWrite
  | .modeClaim _ _ _ => .modeClaim
  | .keep _ => .keep
  | .modeRelease _ => .modeRelease
  | .streamOpen _ _ _ _ _ _ => .streamOpen
  | .block _ => .block
  | .streamEnd => .streamEnd
  | .streamAbort => .streamAbort

/-- The unit a request carries, if its kind carries one. -/
def Request.unit : Request → Option UnitId
  | .channelOpen => none
  | .channelClose => none
  | .itemRead u _ => some u
  | .faultRead u => some u
  | .faultClear u => some u
  | .routine u _ _ => some u
  | .windowRead u _ _ _ => some u
  | .windowWrite u _ _ _ => some u
  | .mapRead u _ _ _ _ _ => some u
  | .mapWrite u _ _ _ _ _ _ _ _ => some u
  | .modeClaim u _ _ => some u
  | .keep u => some u
  | .modeRelease u => some u
  | .streamOpen u _ _ _ _ _ => some u
  | .block _ => none
  | .streamEnd => none
  | .streamAbort => none

/-- The unit number of a unit field, 00h to 0Fh. -/
def unitOf (b : Byte) : Option UnitId :=
  if h : b.toNat < 16 then some ⟨b.toNat, h⟩ else none

/-- A window, map or similar index, 0 to 3. -/
def index4 (b : Byte) : Option (Fin 4) :=
  if h : b.toNat < 4 then some ⟨b.toNat, h⟩ else none

/-- The fields of a kind that carries a unit (11.2); none for a form fault (R23). -/
def parseUnitFields (k : ReqKind) (u : UnitId) (f : List Byte) : Option Request :=
  match k, f with
  | .itemRead, [a, b] => some (.itemRead u (BitVec.ofNat 16 (leNat [a, b])))
  | .faultRead, [] => some (.faultRead u)
  | .faultClear, [] => some (.faultClear u)
  | .routine, a :: b :: arg =>
    if arg.length ≤ 238 then some (.routine u (BitVec.ofNat 16 (leNat [a, b])) arg) else none
  | .windowRead, [w, _, o0, o1, o2, o3, n0, n1] =>
    (index4 w).map fun i => .windowRead u i (leNat [o0, o1, o2, o3]) (leNat [n0, n1])
  | .windowWrite, w :: _ :: o0 :: o1 :: o2 :: o3 :: n0 :: n1 :: data =>
    if leNat [n0, n1] = data.length then
      (index4 w).map fun i => .windowWrite u i (leNat [o0, o1, o2, o3]) data
    else none
  | .mapRead, [j, r0, c0, w1, h1] =>
    (index4 j).map fun j => .mapRead u j r0.toNat c0.toNat w1.toNat h1.toNat
  | .mapWrite, j :: r0 :: c0 :: w1 :: h1 :: _ :: n0 :: n1 :: k0 :: k1 :: k2 :: k3 :: m0 :: m1 :: m2 :: m3 :: cells =>
    if leNat [n0, n1] = 8 + cells.length then
      (index4 j).map fun j => .mapWrite u j r0.toNat c0.toNat w1.toNat h1.toNat
        (BitVec.ofNat 32 (leNat [k0, k1, k2, k3])) (BitVec.ofNat 32 (leNat [m0, m1, m2, m3])) cells
    else none
  | .modeClaim, [m, n] => (modeOf m).map fun m => .modeClaim u m n.toNat
  | .keep, [] => some (.keep u)
  | .modeRelease, [] => some (.modeRelease u)
  | .streamOpen, [w, p, z, _, a0, a1, a2, a3, t0, t1, t2, t3] =>
    match index4 w, policyOf p with
    | some i, some p => some (.streamOpen u i p z.toNat (leNat [a0, a1, a2, a3]) (leNat [t0, t1, t2, t3]))
    | _, _ => none
  | _, _ => none

/-- The fields of a kind without a unit (11.2); none for a form fault (R23). -/
def parsePlainFields (k : ReqKind) (f : List Byte) : Option Request :=
  match k, f with
  | .channelOpen, [] => some .channelOpen
  | .channelClose, [] => some .channelClose
  | .block, data => if 1 ≤ data.length ∧ data.length ≤ 240 then some (.block data) else none
  | .streamEnd, [] => some .streamEnd
  | .streamAbort, [] => some .streamAbort
  | _, _ => none

/-- The form stage (R23) but for NO_UNIT: the request a body spells, or none for MALFORMED.
The reserved header byte is ignored (R167). -/
def parseRequest (body : List Byte) : Option Request :=
  match body with
  | kind :: unit :: len :: _ :: fields =>
    match kindOf kind with
    | none => none
    | some k =>
      if len.toNat = fields.length then
        if kindHasUnit k then
          match unitOf unit with
          | some u => parseUnitFields k u fields
          | none => none
        else if unit = 0xFF#8 then parsePlainFields k fields
        else none
      else none
  | _ => none

/-- The kind byte of a body. -/
def bodyKind (body : List Byte) : Byte := body.headD 0

/-- The unit of a body whose kind carries one, read from its unit byte even where the body is MALFORMED (log 23). -/
def bodyUnit (body : List Byte) : Option UnitId :=
  match kindOf (bodyKind body), body with
  | some k, _ :: unit :: _ => if kindHasUnit k then unitOf unit else none
  | _, _ => none

/-- The body of a request row: its kind's code and the message's bytes. -/
def rowBody (k : ReqKind) (m : ReqMsg) : List Byte := kindCode k :: m.unit :: m.len :: m.reserved :: m.fields

/-! ### The body of a request, written out -/

/-- The unit byte of a request. -/
def requestUnitByte (r : Request) : Byte :=
  match r.unit with
  | some u => byte u.val
  | none => 0xFF

/-- The policy's code (11.2). -/
def policyCode : GapPolicy → Byte
  | .strict => 0
  | .lenient => 1

/-- The field bytes of a request (11.2), reserved bytes 0. -/
def requestFields : Request → List Byte
  | .channelOpen => []
  | .channelClose => []
  | .itemRead _ id => leBytes 2 id.toNat
  | .faultRead _ => []
  | .faultClear _ => []
  | .routine _ id arg => leBytes 2 id.toNat ++ arg
  | .windowRead _ i o n => byte i.val :: 0 :: (leBytes 4 o ++ leBytes 2 n)
  | .windowWrite _ i o data => byte i.val :: 0 :: (leBytes 4 o ++ leBytes 2 data.length ++ data)
  | .mapRead _ j r0 c0 w1 h1 => [byte j.val, byte r0, byte c0, byte w1, byte h1]
  | .mapWrite _ j r0 c0 w1 h1 key mask cells =>
    [byte j.val, byte r0, byte c0, byte w1, byte h1, 0] ++ leBytes 2 (8 + cells.length) ++ leBytes 4 key.toNat ++
      leBytes 4 mask.toNat ++ cells
  | .modeClaim _ m n => [modeCode m, byte n]
  | .keep _ => []
  | .modeRelease _ => []
  | .streamOpen _ i p z a t => [byte i.val, policyCode p, byte z, 0] ++ leBytes 4 a ++ leBytes 4 t
  | .block data => data
  | .streamEnd => []
  | .streamAbort => []

/-- The body that spells a request (11.2). -/
def encodeRequest (r : Request) : List Byte :=
  kindCode r.kind :: requestUnitByte r :: byte (requestFields r).length :: 0 :: requestFields r

/-- The request fits the widths of 11.2: the requests that a body can spell. -/
def Request.wf : Request → Bool
  | .routine _ _ arg => arg.length ≤ 238
  | .windowRead _ _ o n => o < 4294967296 && n < 65536
  | .windowWrite _ _ o data => o < 4294967296 && data.length ≤ 232
  | .mapRead _ _ r0 c0 w1 h1 => r0 < 256 && c0 < 256 && w1 < 256 && h1 < 256
  | .mapWrite _ _ r0 c0 w1 h1 _ _ cells => r0 < 256 && c0 < 256 && w1 < 256 && h1 < 256 && cells.length ≤ 224
  | .modeClaim _ _ n => n < 256
  | .streamOpen _ _ _ z a t => z < 256 && a < 4294967296 && t < 4294967296
  | .block data => 1 ≤ data.length && data.length ≤ 240
  | .channelOpen => true
  | .channelClose => true
  | .itemRead _ _ => true
  | .faultRead _ => true
  | .faultClear _ => true
  | .keep _ => true
  | .modeRelease _ => true
  | .streamEnd => true
  | .streamAbort => true

/-! ### Supervisor commands -/

/-- A supervisor command with its arguments (R162). -/
inductive Command where
  | grantInstall (a : GrantArgs)
  | grantSuspend (slot : Byte)
  | grantResume (slot : Byte)
  | grantRecharge (slot : Byte) (allowance : BitVec 32)
  | grantRevoke (slot : Byte)
  | grantQuery (slot : Byte)
  | unitDefine (a : UnitArgs)
  | unitClear (unit : Byte)
  | claimEnd (unit : Byte)
  | channelHalt (port index : Byte)
  | channelClear (port index : Byte)
  | monitorSetup (a : SetupArgs)
  | monitorSetupGlobal (steps policies : Byte)
  | monitorBadSelector
  | monitorRead (selector : Byte)
  | monitorPreload (counter : Byte) (value : BitVec 32)
  | monitorAcknowledge (counters : Byte) (grants : BitVec 32) (flags : Byte)
  | freeze
  | unfreeze
  | trailRead (count : Byte)
  | portSetup (reqId repId : BitVec 16)
  | statusRead
  | gatewayReset

/-- Byte `i` of an argument list. -/
def argByte (a : List Byte) (i : Nat) : Byte := a.getD i 0

/-- The 2-byte argument at offset `i`. -/
def arg16 (a : List Byte) (i : Nat) : BitVec 16 := BitVec.ofNat 16 (leNat [argByte a i, argByte a (i + 1)])

/-- The 4-byte argument at offset `i`. -/
def arg32 (a : List Byte) (i : Nat) : BitVec 32 :=
  BitVec.ofNat 32 (leNat [argByte a i, argByte a (i + 1), argByte a (i + 2), argByte a (i + 3)])

/-- GRANT INSTALL's layout (11.6). -/
def grantArgsOf (a : List Byte) : GrantArgs where
  slot := argByte a 0
  requester := argByte a 1
  unitValue := argByte a 2
  unitMask := argByte a 3
  classes := arg16 a 4
  itemValue := arg16 a 6
  itemMask := arg16 a 8
  routineValue := arg16 a 10
  routineMask := arg16 a 12
  rights := argByte a 14
  allowance := arg32 a 15
  expiry := arg16 a 19
  escalate := argByte a 21
  lapse := argByte a 22

/-- UNIT DEFINE's layout (11.6): window n at 10 + 8n, map n at 42 + 10n. -/
def unitArgsOf (a : List Byte) : UnitArgs where
  unit := argByte a 0
  bus := argByte a 1
  reqId := arg16 a 2
  repId := arg16 a 4
  timeout := arg16 a 6
  windowsPresent := argByte a 8
  mapsPresent := argByte a 9
  windows := Vector.ofFn fun n =>
    { base := arg16 a (10 + 8 * n.val), granularity := argByte a (12 + 8 * n.val), length := arg16 a (13 + 8 * n.val),
      attributes := argByte a (15 + 8 * n.val) }
  maps := Vector.ofFn fun n =>
    { window := argByte a (42 + 10 * n.val), cell := argByte a (43 + 10 * n.val), columns := argByte a (44 + 10 * n.val),
      rows := argByte a (45 + 10 * n.val), offset := arg32 a (46 + 10 * n.val), pitch := arg16 a (50 + 10 * n.val) }

/-- MONITOR SETUP's counter form (11.6). -/
def setupArgsOf (a : List Byte) : SetupArgs where
  counter := argByte a 0
  enable := argByte a 1
  event := argByte a 2
  ports := argByte a 3
  bus := argByte a 4
  unitValue := argByte a 5
  unitMask := argByte a 6
  threshold := argByte a 7
  invert := argByte a 8
  edge := argByte a 9
  escalate := argByte a 10

/-- MONITOR SETUP's two forms and their lengths (R162): 11 bytes for a counter number, 3 for FFh; any other first
argument is refused whatever the length. -/
def parseMonitorSetup (a : List Byte) : Option Command :=
  match a with
  | [] => none
  | c :: _ =>
    if c = 0xFF#8 then
      if a.length = 3 then some (.monitorSetupGlobal (argByte a 1) (argByte a 2)) else none
    else if c.toNat ≤ 7 then
      if a.length = 11 then some (.monitorSetup (setupArgsOf a)) else none
    else some .monitorBadSelector

/-- The command a code and its arguments spell; none for an unknown code or a wrong length: MALFORMED (R162). -/
def parseCommand (code : Byte) (a : List Byte) : Option Command :=
  let sized (n : Nat) (c : Command) : Option Command := if a.length = n then some c else none
  if code = cmdGrantInstall then sized 23 (.grantInstall (grantArgsOf a))
  else if code = cmdGrantRevoke then sized 1 (.grantRevoke (argByte a 0))
  else if code = cmdGrantSuspend then sized 1 (.grantSuspend (argByte a 0))
  else if code = cmdGrantResume then sized 1 (.grantResume (argByte a 0))
  else if code = cmdGrantRecharge then sized 5 (.grantRecharge (argByte a 0) (arg32 a 1))
  else if code = cmdGrantQuery then sized 1 (.grantQuery (argByte a 0))
  else if code = cmdUnitDefine then sized 82 (.unitDefine (unitArgsOf a))
  else if code = cmdUnitClear then sized 1 (.unitClear (argByte a 0))
  else if code = cmdClaimEnd then sized 1 (.claimEnd (argByte a 0))
  else if code = cmdChannelHalt then sized 2 (.channelHalt (argByte a 0) (argByte a 1))
  else if code = cmdChannelClear then sized 2 (.channelClear (argByte a 0) (argByte a 1))
  else if code = cmdMonitorSetup then parseMonitorSetup a
  else if code = cmdMonitorRead then sized 1 (.monitorRead (argByte a 0))
  else if code = cmdMonitorPreload then sized 5 (.monitorPreload (argByte a 0) (arg32 a 1))
  else if code = cmdMonitorAcknowledge then sized 6 (.monitorAcknowledge (argByte a 0) (arg32 a 1) (argByte a 5))
  else if code = cmdFreeze then sized 0 .freeze
  else if code = cmdUnfreeze then sized 0 .unfreeze
  else if code = cmdTrailRead then sized 1 (.trailRead (argByte a 0))
  else if code = cmdPortSetup then sized 4 (.portSetup (arg16 a 0) (arg16 a 2))
  else if code = cmdStatusRead then sized 0 .statusRead
  else if code = cmdGatewayReset then sized 0 .gatewayReset
  else none

end Sys2Proof.Machine
end

