-- ==== Sys2Proof/Machine/Admission.lean ====
section
/-! DEFINITION. The admission check: its ten stages (R21 to R37), and what admission reports and records (R39,
R40). -/

namespace Sys2Proof.Machine

/-! ### Windows and maps a request addresses -/

/-- The absolute address of an offset in a unit's window: G·g + o (R32). -/
def windowByte (u : UnitId) (i : Fin 4) (o : Nat) (s : State) : Nat :=
  match windowAt u i s with
  | some w => windowAddr w + o
  | none => o

/-- The address of the cell at row `r` and column `c` of a map: G·g + m + r·P + c·s (R47). -/
def cellAddr (u : UnitId) (m : MapDef) (r c : Nat) (s : State) : Nat :=
  windowByte u m.window (m.offset + r * m.pitch + c * m.cell) s

/-! ### Range and cost (R32 to R35) -/

/-- What the range stage works out: the cost, the CLAMPED mark, and a map job's rectangle and row requests. -/
structure Plan where
  cost : Nat
  clamped : Bool
  width : Nat
  height : Nat
  rows : List RowReq

/-- The plan of a kind without a rectangle. -/
def Plan.flat (cost : Nat) : Plan := ⟨cost, false, 0, 0, []⟩

/-- R33 steps 3 and 4: a MAP READ's delivered width. -/
def readWidth (m : MapDef) (c0 w1 : Nat) : Nat := min (min (w1 + 1) (m.columns - c0)) (240 / m.cell)

/-- R33 steps 3 and 4: a MAP READ's delivered height. -/
def readHeight (m : MapDef) (r0 c0 w1 h1 : Nat) : Nat :=
  min (min (h1 + 1) (m.rows - r0)) (240 / (readWidth m c0 w1 * m.cell))

/-- R33: the plan of a MAP READ that lies in its map. -/
def readPlan (u : UnitId) (m : MapDef) (r0 c0 w1 h1 : Nat) (s : State) : Plan :=
  let width := readWidth m c0 w1
  let height := readHeight m r0 c0 w1 h1
  { cost := height
    clamped := width < w1 + 1 || height < h1 + 1
    width := width
    height := height
    rows := (List.range height).map fun i =>
      { row := i, column := 0, cells := width, addr := cellAddr u m (r0 + i) c0 s, len := width * m.cell, data := [] } }

/-- A cell is skipped: its value matches the key under the mask in the low 8·s bits (R34). -/
def isSkipped (size : Nat) (key mask : BitVec 32) (cell : List Byte) : Bool :=
  (BitVec.ofNat 32 (leNat cell) ^^^ key) &&& ~~~mask &&& BitVec.ofNat 32 (2 ^ (8 * size) - 1) == 0

/-- A run within a row: its first column, its number of cells and their bytes (R34). -/
structure Run where
  first : Nat
  count : Nat
  data : List Byte

/-- A run in progress takes one more cell. -/
def extendRun (column : Nat) (cell : List Byte) : Option Run → Run
  | none => ⟨column, 1, cell⟩
  | some r => { r with count := r.count + 1, data := r.data ++ cell }

/-- The maximal sequences of non-skipped cells of a row from a column on, given the run in progress (R34). -/
def runsOfRow (skipped : List Byte → Bool) : Nat → Option Run → List (List Byte) → List Run
  | _, current, [] => current.toList
  | column, current, cell :: rest =>
    if skipped cell then current.toList ++ runsOfRow skipped (column + 1) none rest
    else runsOfRow skipped (column + 1) (some (extendRun column cell current)) rest

/-- The first `n` cells of `size` bytes each. -/
def cellsOf (n size : Nat) (data : List Byte) : List (List Byte) :=
  (List.range n).map fun i => (data.drop (i * size)).take size

/-- R34: the runs of a MAP WRITE in row-major order, as row requests. -/
def writeRuns (u : UnitId) (m : MapDef) (r0 c0 width height : Nat) (key mask : BitVec 32) (cells : List Byte)
    (s : State) : List RowReq :=
  (List.range height).flatMap fun row =>
    (runsOfRow (isSkipped m.cell key mask) 0 none
      (cellsOf width m.cell (cells.drop (row * width * m.cell)))).map fun run =>
        { row := row, column := run.first, cells := run.count, addr := cellAddr u m (r0 + row) (c0 + run.first) s,
          len := run.count * m.cell, data := run.data }

/-- R34: the plan of a MAP WRITE. -/
def writePlan (u : UnitId) (m : MapDef) (r0 c0 w1 h1 : Nat) (key mask : BitVec 32) (cells : List Byte)
    (s : State) : Plan :=
  let runs := writeRuns u m r0 c0 (w1 + 1) (h1 + 1) key mask cells s
  { cost := runs.length, clamped := false, width := w1 + 1, height := h1 + 1, rows := runs }

/-- R32: a window access of `n` bytes, at most `most`. -/
def windowRange (u : UnitId) (i : Fin 4) (o n most : Nat) (s : State) : Option Status :=
  match windowAt u i s with
  | none => some .outOfWindow
  | some w =>
    if n = 0 ∨ most < n then some .badLength
    else if windowSize w < o + n then some .outOfWindow
    else none

/-- Stage 7: the range check of a request (R32 to R35); the other kinds pass. -/
def rangeStage (r : Request) (s : State) : Option Status :=
  match r with
  | .windowRead u i o n => windowRange u i o n 240 s
  | .windowWrite u i o data => windowRange u i o data.length 232 s
  | .mapRead u j r0 c0 _ _ =>
    match mapAt u j s with
    | none => some .outOfMap
    | some m => if m.rows ≤ r0 ∨ m.columns ≤ c0 then some .outOfMap else none
  | .mapWrite u j r0 c0 w1 h1 _ _ cells =>
    match mapAt u j s with
    | none => some .outOfMap
    | some m =>
      if m.rows ≤ r0 + h1 ∨ m.columns ≤ c0 + w1 then some .outOfMap
      else if cells.length ≠ (w1 + 1) * (h1 + 1) * m.cell ∨ 224 < cells.length then some .badLength
      else none
  | .streamOpen u i _ size start total =>
    match windowAt u i s with
    | none => some .badArgument
    | some w =>
      if !w.flashTarget || size < 16 || 240 < size || total == 0 || windowSize w < start + total then
        some .badArgument
      else none
  | _ => none

/-- The plan of a request that the range stage passes; the fixed costs are those of R37. -/
def planOf (r : Request) (s : State) : Plan :=
  match r with
  | .itemRead _ _ => Plan.flat 1
  | .faultRead _ => Plan.flat 1
  | .faultClear _ => Plan.flat 1
  | .routine _ _ _ => Plan.flat 1
  | .windowRead _ _ _ _ => Plan.flat 1
  | .windowWrite _ _ _ _ => Plan.flat 1
  | .modeClaim _ _ _ => Plan.flat 1
  | .mapRead u j r0 c0 w1 h1 =>
    match mapAt u j s with
    | some m => readPlan u m r0 c0 w1 h1 s
    | none => Plan.flat 0
  | .mapWrite u j r0 c0 w1 h1 key mask cells =>
    match mapAt u j s with
    | some m => writePlan u m r0 c0 w1 h1 key mask cells s
    | none => Plan.flat 0
  | .streamOpen _ _ _ size _ total => Plan.flat ((total + size - 1) / size)
  | .channelOpen => Plan.flat 0
  | .channelClose => Plan.flat 0
  | .keep _ => Plan.flat 0
  | .modeRelease _ => Plan.flat 0
  | .block _ => Plan.flat 0
  | .streamEnd => Plan.flat 0
  | .streamAbort => Plan.flat 0

/-- The cost used for selection: 0 where the range stage would refuse (R27). -/
def costOf (r : Request) (s : State) : Nat :=
  match rangeStage r s with
  | some _ => 0
  | none => (planOf r s).cost

/-! ### The earlier stages -/

/-- The second half of the form stage: a unit that is UNDEFINED is refused NO_UNIT (R23). -/
def unitStage (r : Request) (s : State) : Option Status :=
  match r.unit with
  | none => none
  | some u => if (unitAt u s).defn.isNone then some .noUnit else none

/-- Kinds exempt from the freeze on any port (R24). -/
def freezeExempt : ReqKind → Bool
  | .keep => true
  | .modeRelease => true
  | .streamEnd => true
  | .streamAbort => true
  | .channelClose => true
  | _ => false

/-- Stage 2 (R24). -/
def freezeStage (c : ChanId) (k : ReqKind) (s : State) : Option Status :=
  if s.monitor.freeze.isSome && !freezeExempt k && chanPort c != .svp then some .frozen else none

/-- Stage 3 (R25). -/
def busStage (r : Request) (s : State) : Option Status :=
  match r.unit.bind fun u => unitBus u s with
  | none => none
  | some b =>
    match (busAt b s).state with
    | .active => none
    | .off => some .busFault
    | .asleep => some .unitAsleep

/-- The class of a kind, as its bit of the class set (R26, 11.6). -/
def kindClass : ReqKind → Option Nat
  | .itemRead => some 0
  | .faultRead => some 1
  | .faultClear => some 2
  | .routine => some 3
  | .windowRead => some 4
  | .mapRead => some 4
  | .windowWrite => some 5
  | .mapWrite => some 5
  | .streamOpen => some 6
  | .modeClaim => some 7
  | .channelOpen => none
  | .channelClose => none
  | .keep => none
  | .modeRelease => none
  | .block => none
  | .streamEnd => none
  | .streamAbort => none

/-- READ and READ_WRITE allow the read kinds (R3). -/
def allowsRead : Right → Bool
  | .none => false
  | .read => true
  | .readWrite => true

/-- READ_WRITE allows the write kinds (R3). -/
def allowsWrite : Right → Bool
  | .none => false
  | .read => false
  | .readWrite => true

/-- A grant's right at the window a map lies in; an undefined map tests none (R26). -/
def mapRight (allows : Right → Bool) (u : UnitId) (j : Fin 4) (g : Grant) (s : State) : Bool :=
  match mapAt u j s with
  | some m => allows (g.rights.get m.window)
  | none => true

/-- Condition 5 of R26. -/
def furtherMatch (r : Request) (g : Grant) (s : State) : Bool :=
  match r with
  | .itemRead _ id => maskedMatch id g.itemValue g.itemMask
  | .routine _ id _ => maskedMatch id g.routineValue g.routineMask
  | .windowRead _ i _ _ => allowsRead (g.rights.get i)
  | .windowWrite _ i _ _ => allowsWrite (g.rights.get i)
  | .mapRead u j _ _ _ _ => mapRight allowsRead u j g s
  | .mapWrite u j _ _ _ _ _ _ _ => mapRight allowsWrite u j g s
  | _ => true

/-- The states of a candidate (R26). -/
def candidateState : GrantState → Bool
  | .vacant => false
  | .armed => false
  | .active => true
  | .suspended => true
  | .spent => true

/-- The grant matches a unit number (R2). -/
def matchesUnit (g : Grant) (u : UnitId) : Bool := maskedMatch (BitVec.ofNat 4 u.val) g.unitValue g.unitMask

/-- R26: a grant is a candidate for a request on a port. -/
def isCandidate (p : Port) (r : Request) (g : Grant) (s : State) : Bool :=
  candidateState g.state && g.requester == p &&
    (match r.unit with
      | some u => matchesUnit g u
      | none => false) &&
    (match kindClass r.kind with
      | some b => g.classes.getLsbD b
      | none => false) &&
    furtherMatch r g s

/-- 2 to the 20th, where the budget counter overflows (R15). -/
def counterLimit : Nat := 1048576

/-- The remaining budget; none for an unmetered grant (R14). -/
def remaining (g : Grant) : Option Nat :=
  if g.allowance = 0 then none
  else if g.counter = 0 then some 0
  else some (counterLimit - g.counter.toNat)

/-- The grant is unmetered or has a remaining budget of at least `n` (R14, R27). -/
def canPay (g : Grant) (n : Nat) : Bool :=
  match remaining g with
  | none => true
  | some k => n ≤ k

/-- A candidate in a given state exists. -/
def someCandidate (p : Port) (r : Request) (st : GrantState) (s : State) : Bool :=
  allSlots.any fun i => isCandidate p r (grantAt i s) s && (grantAt i s).state == st

/-- R27: the lowest-numbered ACTIVE candidate that can pay the cost. -/
def selectGrant (c : ChanId) (r : Request) (s : State) : Option Slot :=
  allSlots.find? fun i =>
    isCandidate (chanPort c) r (grantAt i s) s && (grantAt i s).state == .active && canPay (grantAt i s) (costOf r s)

/-- R27: the refusal when no candidate qualifies. -/
def selectionRefusal (p : Port) (r : Request) (s : State) : Status :=
  if someCandidate p r .active s then .budget
  else if someCandidate p r .suspended s then .suspended
  else if someCandidate p r .spent s then .budget
  else .noGrant

/-- R28: some ACTIVE grant serves the port's requester. -/
def openGrantExists (p : Port) (s : State) : Bool :=
  allSlots.any fun i => (grantAt i s).state == .active && (grantAt i s).requester == p

/-- Stage 4 (R26 to R28). -/
def grantStage (c : ChanId) (r : Request) (s : State) : Option Status :=
  match kindClass r.kind with
  | some _ =>
    match selectGrant c r s with
    | some _ => none
    | none => some (selectionRefusal (chanPort c) r s)
  | none =>
    match r.kind with
    | .channelOpen => if openGrantExists (chanPort c) s then none else some .noGrant
    | _ => none

/-- The claim test of the claim-needing kinds: the claim must be the channel's own in a sufficient state (R29). -/
def needClaim (c : ChanId) (cl : Claim) (enough : ClaimState → Bool) : Option Status :=
  if cl.state = .free then some .notClaimed
  else if cl.holder ≠ some c then some .held
  else if enough cl.state then none
  else some .notClaimed

/-- A claim in ATTENDED or FLASH. -/
def inMode (st : ClaimState) : Bool := st == .attended || st == .flash

/-- MODE CLAIM's test (R30). -/
def claimClaimTest (c : ChanId) (cl : Claim) : Option Status :=
  match cl.state with
  | .free => none
  | .attended => if cl.holder = some c then none else some .held
  | .flash => if cl.holder = some c then none else some .held
  | .entering => some .held
  | .leaving => some .held

/-- The read kinds' test (R29). -/
def readClaimTest (c : ChanId) (cl : Claim) : Option Status :=
  if reservedByOther c cl then some .held else none

/-- KEEP's and MODE RELEASE's test (R30). -/
def holderTest (c : ChanId) (cl : Claim) : Option Status := if holdsClaim c cl then none else some .notClaimed

/-- Stage 5 (R29, R30). -/
def claimStage (c : ChanId) (r : Request) (s : State) : Option Status :=
  match r with
  | .itemRead u _ => readClaimTest c (unitAt u s).claim
  | .faultRead u => readClaimTest c (unitAt u s).claim
  | .windowRead u _ _ _ => readClaimTest c (unitAt u s).claim
  | .mapRead u _ _ _ _ _ => readClaimTest c (unitAt u s).claim
  | .faultClear u => needClaim c (unitAt u s).claim inMode
  | .routine u _ _ => needClaim c (unitAt u s).claim inMode
  | .windowWrite u _ _ _ => needClaim c (unitAt u s).claim inMode
  | .mapWrite u _ _ _ _ _ _ _ _ => needClaim c (unitAt u s).claim inMode
  | .streamOpen u _ _ _ _ _ => needClaim c (unitAt u s).claim fun st => st == .flash
  | .modeClaim u _ _ => claimClaimTest c (unitAt u s).claim
  | .keep u => holderTest c (unitAt u s).claim
  | .modeRelease u => holderTest c (unitAt u s).claim
  | .channelOpen => none
  | .channelClose => none
  | .block _ => none
  | .streamEnd => none
  | .streamAbort => none

/-- MOVE asserted, or RUN asserted and the window not LIVE (R31). -/
def writeInterlocked (live : Bool) (s : State) : Bool := s.filtered.move || (s.filtered.run && !live)

/-- RUN or MOVE asserted (R31). -/
def flashInterlocked (s : State) : Bool := s.filtered.run || s.filtered.move

/-- The map's window is defined and LIVE. -/
def mapLive (u : UnitId) (j : Fin 4) (s : State) : Bool :=
  match mapAt u j s with
  | some m => isLive u m.window s
  | none => false

/-- The kinds that must not reach a unit now (R31). -/
def interlocked (r : Request) (s : State) : Bool :=
  match r with
  | .faultClear _ => s.filtered.move
  | .routine _ _ _ => s.filtered.move
  | .windowWrite u i _ _ => writeInterlocked (isLive u i s) s
  | .mapWrite u j _ _ _ _ _ _ _ => writeInterlocked (mapLive u j s) s
  | .modeClaim _ .flash _ => flashInterlocked s
  | .streamOpen _ _ _ _ _ _ => flashInterlocked s
  | _ => false

/-- Stage 6 (R31). -/
def interlockStage (r : Request) (s : State) : Option Status := if interlocked r s then some .interlock else none

/-- A unit with no outstanding entry, or with fewer than 4 waiting channel requests, has a place (R36). -/
def unitPlaceFree (u : UnitId) (s : State) : Bool :=
  (unitAt u s).out.isNone || ((unitAt u s).wait.filter isChannelRequest).length < Config.waitChannelPlaces

/-- The map engine has a place (R36). -/
def mapPlaceFree (s : State) : Bool := s.map.active.isNone || s.map.queue.length < Config.mapQueueDepth

/-- The MODE CLAIM is the holder's repeat of its present mode: no MODE ENTER is sent (R36, R56). -/
def repeatsMode (cl : Claim) (m : Mode) : Bool := cl.state == stateOfMode m

/-- The room test of a unit place. -/
def unitRoom (u : UnitId) (s : State) : Option Status := if unitPlaceFree u s then none else some .unitBusy

/-- The room test of the map queue. -/
def mapRoom (s : State) : Option Status := if mapPlaceFree s then none else some .engineBusy

/-- Stage 8 (R36). -/
def capacityStage (r : Request) (s : State) : Option Status :=
  match r with
  | .itemRead u _ => unitRoom u s
  | .faultRead u => unitRoom u s
  | .faultClear u => unitRoom u s
  | .routine u _ _ => unitRoom u s
  | .windowRead u _ _ _ => unitRoom u s
  | .windowWrite u _ _ _ => unitRoom u s
  | .modeClaim u m _ => if repeatsMode (unitAt u s).claim m then none else unitRoom u s
  | .mapRead _ _ _ _ _ _ => mapRoom s
  | .mapWrite _ _ _ _ _ _ _ _ _ => if (planOf r s).cost = 0 then none else mapRoom s
  | .streamOpen _ _ _ _ _ _ => if (freeCtx s).isNone then some .noRoom else none
  | .channelOpen => none
  | .channelClose => none
  | .keep _ => none
  | .modeRelease _ => none
  | .block _ => none
  | .streamEnd => none
  | .streamAbort => none

/-! ### The check -/

/-- The stages that read state, in their order (R21); each answers a refusal or passes. -/
def stages (c : ChanId) (r : Request) (s : State) : List (Option Status) :=
  [unitStage r s, freezeStage c r.kind s, busStage r s, grantStage c r s, claimStage c r s, interlockStage r s,
   rangeStage r s, capacityStage r s]

/-- The first stage that fails gives the refusal status (R21). -/
def refusalOf (c : ChanId) (r : Request) (s : State) : Option Status := (stages c r s).findSome? id

/-- The outcome of the check (R21). -/
inductive Verdict where
  | refused (st : Status)
  | admitted (r : Request) (grant : Option Slot) (plan : Plan)

/-- R21: stages 1 to 8, which read state and change none. -/
def check (c : ChanId) (body : List Byte) (s : State) : Verdict :=
  match parseRequest body with
  | none => .refused .malformed
  | some r =>
    match refusalOf c r s with
    | some st => .refused st
    | none => .admitted r (selectGrant c r s) (planOf r s)

/-! ### What admission changes and reports -/

/-- Stage 9: the charge of `cost` to a grant (R15, R16, R37). -/
def charge (g : Slot) (cost : Nat) (s : State) : State :=
  let x := grantAt g s
  if x.allowance = 0 ∨ cost = 0 then s
  else if x.counter.toNat + cost < counterLimit then
    setGrant g { x with counter := x.counter + BitVec.ofNat 20 cost } s
  else
    let s1 := setGrant g { x with counter := 0, state := .spent } s
    if x.escalate then escalateGrant g s1 else s1

/-- Admission's report of an occurrence: the channel's port and, for kinds with a unit, the unit and its bus (R40,
R136). -/
def admissionReport (c : ChanId) (u : Option UnitId) (e : Event) (s : State) : State :=
  report ⟨e, some (chanPort c), u.bind fun u => unitBus u s, u⟩ s

/-- Refusal statuses that write a REFUSAL record (R39). -/
def recordsRefusal : Status → Bool
  | .noGrant => true
  | .held => true
  | .interlock => true
  | .outOfWindow => true
  | .outOfMap => true
  | _ => false

/-- The further occurrence of a refusal status (R40). -/
def furtherEvent : Status → Option Event
  | .noGrant => some .refusedGrant
  | .suspended => some .refusedGrant
  | .budget => some .refusedGrant
  | .interlock => some .refusedInterlock
  | .outOfWindow => some .refusedRange
  | .outOfMap => some .refusedRange
  | _ => none

/-- R39, R40: what a refusal writes to the trail and reports to the monitor, in this order (log 16). -/
def noteRefusal (c : ChanId) (body : List Byte) (st : Status) (s : State) : State :=
  let u := bodyUnit body
  let s1 := if recordsRefusal st then writeChanRecord c none u (.refusal st (bodyKind body)) s else s
  let s2 := admissionReport c u .refused s1
  match furtherEvent st with
  | some e => admissionReport c u e s2
  | none => s2

/-- The trail record of an admitted kind (R39). -/
def admittedDetail : Request → Option Detail
  | .faultClear _ => some .faultClear
  | .routine _ id _ => some (.routine id)
  | .windowWrite _ i o data => some (.write i o data.length)
  | .mapWrite _ j r0 c0 w1 h1 _ _ _ => some (.mapWrite j r0 c0 w1 h1)
  | .streamOpen _ i _ _ start total => some (.stream i start total none)
  | _ => none

/-- The charge to the selected grant, if one was selected (R37). -/
def chargeSelected (g : Option Slot) (cost : Nat) (s : State) : State :=
  match g with
  | some i => charge i cost s
  | none => s

/-- The trail record of an admitted request, if its kind writes one (R39). -/
def recordAdmitted (c : ChanId) (r : Request) (g : Option Slot) (s : State) : State :=
  match admittedDetail r with
  | some d => writeChanRecord c g r.unit d s
  | none => s

/-- R37, R39, R40: an admitted request is charged, recorded and reported, in this order (log 16). -/
def noteAdmission (c : ChanId) (r : Request) (g : Option Slot) (cost : Nat) (s : State) : State :=
  admissionReport c r.unit .admitted (recordAdmitted c r g (chargeSelected g cost s))

end Sys2Proof.Machine
end

