-- ==== Sys2Proof/Machine/Requests.lean ====
section
/-! DEFINITION. Requests at a channel: the hand-off of an admitted request (R38), the decision on a taken message
(R71, R75), the buffer discipline (R70 to R72), and opening and closing (R77 to R80). -/

namespace Sys2Proof.Machine

/-! ### Hand-off (R38) -/

/-- The holder's claim timer restarts at the hand-off of its request for the unit (R38, R58). -/
def restartForHolder (c : ChanId) (u : UnitId) (s : State) : State :=
  if holdsClaim c (unitAt u s).claim then restartClaimTimer u s else s

/-- A channel request of R50 placed on its unit; the request pends there (R38, R51). -/
def placeRequest (c : ChanId) (u : UnitId) (msg : UnitMsg) (g : Option Slot) (w : Option (Fin 4)) (s : State) :
    State × HandOff :=
  (placeEntry u { source := .channel c, msg := msg, grant := g, window := w, keep := 0 } (restartForHolder c u s),
    .pends (.unit u) false)

/-- R57: the keep period of a count of 100 ms steps, and whether it is clamped. -/
def keepPeriod (count : Nat) : Nat × Bool :=
  if count = 0 then (2000, false)
  else if count ≤ 50 then (100 * count, false)
  else (5000, true)

/-- The MODE ENTER of a MODE CLAIM (R55, R56). -/
def modeEnterEntry (c : ChanId) (m : Mode) (g : Option Slot) (keep : Nat) : Entry :=
  { source := .channel c, msg := .modeEnter m, grant := g, window := none, keep := keep }

/-- The mode of a held claim. -/
def heldMode : ClaimState → Option Mode
  | .attended => some .attended
  | .flash => some .flash
  | .free => none
  | .entering => none
  | .leaving => none

/-- A FREE claim taken by a channel (R55). -/
def takenClaim (c : ChanId) (m : Mode) (g : Option Slot) (keep : Nat) : Claim :=
  { Claim.free with state := .entering, holder := some c, grant := g, target := some m, keep := keep }

/-- A held claim changing to the other mode (R56). -/
def changingClaim (cl : Claim) (m : Mode) (g : Option Slot) : Claim :=
  { cl with state := .entering, target := some m, prior := heldMode cl.state, grant := g }

/-- R55 to R57: an admitted MODE CLAIM. -/
def handModeClaim (c : ChanId) (u : UnitId) (m : Mode) (count : Nat) (g : Option Slot) (s : State) :
    State × HandOff :=
  let un := unitAt u s
  let keep := (keepPeriod count).1
  let clamped := (keepPeriod count).2
  if un.claim.state = .free then
    (placeEntry u (modeEnterEntry c m g keep) (setUnit u { un with claim := takenClaim c m g keep } s),
      .pends (.modeClaim u) clamped)
  else if repeatsMode un.claim m then
    (setUnit u { un with claim := { un.claim with grant := g, keep := keep }, claimTimer := some keep } s,
      .answered .done [] clamped)
  else
    (placeEntry u (modeEnterEntry c m g keep)
      (setUnit u { un with claim := changingClaim un.claim m g, claimTimer := none } s),
      .pends (.modeClaim u) clamped)

/-- R62: an admitted MODE RELEASE. -/
def handModeRelease (u : UnitId) (s : State) : State × HandOff :=
  let s1 := leaveClaim u .released s
  let un := unitAt u s1
  (setUnit u { un with claim := { un.claim with releasePending := true } } s1, .pends (.modeRelease u) false)

/-- R101: the job of an admitted MAP READ or MAP WRITE. -/
def jobOf (kind : JobKind) (c : ChanId) (u : UnitId) (j : Fin 4) (r0 c0 : Nat) (g : Slot) (p : Plan) (s : State) :
    Job where
  kind := kind
  chan := c
  unit := u
  map := j
  window := match mapAt u j s with
    | some m => m.window
    | none => 0
  grant := g
  r0 := r0
  c0 := c0
  width := p.width
  height := p.height
  plan := p.rows
  done := 0
  assembly := []
  issuing := false

/-- R102: an admitted map job is handed to the map engine, and pends there. -/
def handJob (job : Job) (clamped : Bool) (s : State) : State × HandOff :=
  (takeJob job (restartForHolder job.chan job.unit s), .pends .map clamped)

/-- The context a STREAM OPEN binds (R87). -/
def openedStream (c : ChanId) (u : UnitId) (i : Fin 4) (policy : GapPolicy) (size start total : Nat) (g : Slot) :
    Stream where
  chan := c
  unit := u
  window := i
  start := start
  total := total
  size := size
  policy := policy
  grant := g
  state := .filling
  concluded := none
  accepted := 0
  issued := 0
  confirmed := 0
  slotA := none
  slotB := []
  idle := some Config.idleMs
  release := false
  endPending := none

/-- R87: an admitted STREAM OPEN binds context `k` to its channel. -/
def bindStream (k : CtxId) (x : Stream) (s : State) : State :=
  setChan x.chan { chanAt x.chan s with binding := some k } (setStream k (some x) s)

/-- R87: an admitted STREAM OPEN binds the lowest-numbered free context and is answered DONE. -/
def handStreamOpen (x : Stream) (s : State) : State × HandOff :=
  let s1 := restartForHolder x.chan x.unit s
  match freeCtx s1 with
  | none => (s1, .answered .noRoom [] false)
  | some k => (bindStream k x s1, .answered .done (leBytes 4 0 ++ [byte k.val]) false)

/-- A BLOCK, STREAM END or STREAM ABORT handed to the context bound to its channel. -/
def handToStream (c : ChanId) (take : CtxId → State → State × HandOff) (s : State) : State × HandOff :=
  match (chanAt c s).binding with
  | some k => take k s
  | none => (s, .answered .wrongState [] false)

/-- R38: the admitted request is given to the block that carries out its work. -/
def handOff (c : ChanId) (r : Request) (g : Option Slot) (p : Plan) (s : State) : State × HandOff :=
  match r with
  | .itemRead u id => placeRequest c u (.itemFetch id) g none s
  | .faultRead u => placeRequest c u .faultList g none s
  | .faultClear u => placeRequest c u .faultErase g none s
  | .routine u id arg => placeRequest c u (.routineRun id arg) g none s
  | .windowRead u i o n => placeRequest c u (.memoryFetch (windowByte u i o s) n) g (some i) s
  | .windowWrite u i o data => placeRequest c u (.memoryStore (windowByte u i o s) data false) g (some i) s
  | .mapRead u j r0 c0 _ _ => handJob (jobOf .read c u j r0 c0 (g.getD 0) p s) p.clamped s
  | .mapWrite u j r0 c0 _ _ _ _ _ =>
    if p.cost = 0 then (restartForHolder c u s, .answered .done [0] false)
    else handJob (jobOf .write c u j r0 c0 (g.getD 0) p s) p.clamped s
  | .modeClaim u m count => handModeClaim c u m count g s
  | .keep u => (restartClaimTimer u s, .answered .done [] false)
  | .modeRelease u => handModeRelease u s
  | .streamOpen u i policy size start total => handStreamOpen (openedStream c u i policy size start total (g.getD 0)) s
  | .block data => handToStream c (fun k s => takeBlock k data s) s
  | .streamEnd => handToStream c takeStreamEnd s
  | .streamAbort => handToStream c takeStreamAbort s
  | .channelOpen => (s, .answered .done [] false)
  | .channelClose => (s, .answered .done [] false)

/-! ### The decision on a taken message -/

/-- A taken message's answer: the reply is offered, its buffer becomes free and the channel takes its next state
(R75). -/
def answerTaken (c : ChanId) (b : Buf) (kind : Byte) (st : Status) (clamped : Bool) (payload : List Byte)
    (admitted : Bool) (s : State) : State :=
  let s1 := offerReply { chan := c, buf := b, kind := kind, status := st, clamped := clamped, payload := payload }
    admitted s
  setChan c (settleChan (freeBuffer b (chanAt c s1))) s1

/-- R74, R72, R82: what the channel does with the hand-off's answer. -/
def finishHandOff (c : ChanId) (b : Buf) (kind : ReqKind) (h : HandOff) (s : State) : State :=
  match h with
  | .answered st payload clamped => answerTaken c b (kindCode kind) st clamped payload true s
  | .returned payload =>
    let s1 := answerTaken c b (kindCode kind) .notReady false payload true s
    setChan c { chanAt c s1 with expect := b } s1
  | .overrun payload =>
    haltEntry c .overrun (answerTaken c b (kindCode kind) .overrun false payload true s)
  | .pends place clamped =>
    let ch := chanAt c s
    setChan c (settleChan { ch with active := some { buf := b, kind := kind, clamped := clamped, place := place } }) s

/-- R21, R22, R37, R38: the admission check is taken on the message in buffer `b`, and carried out. The manual does not say
whether the record and the reports (R39, R40) come before the hand-off or the reply: the model notes first (DESIGN CHOICE,
log 16). -/
def decideTaken (c : ChanId) (b : Buf) (body : List Byte) (s : State) : State :=
  match check c body s with
  | .refused st => answerTaken c b (bodyKind body) st false [] false (noteRefusal c body st s)
  | .admitted r g p =>
    let h := handOff c r g p (noteAdmission c r g p.cost s)
    finishHandOff c b r.kind h.2 h.1

/-- R75 step 3: the staged request of a working channel without an active request becomes active and is decided. -/
def promoteStaged (c : ChanId) (s : State) : State :=
  let ch := chanAt c s
  match ch.staged with
  | none => s
  | some b =>
    match bufferAt b ch with
    | some body => decideTaken c b body (setChan c { ch with staged := none } s)
    | none => setChan c (settleChan { ch with staged := none }) s

/-! ### Closing (R78, R80) -/

/-- R78 steps 1 and 4: the staged request is dropped and the channel is CLOSED. The state is set first, so that every
answer that the later steps give is discarded (log 27). -/
def closedChannel (ch : Channel) : Channel :=
  { dropStaged ch with state := .closed, haltCause := none, clearPending := false }

/-- The channel's streams are withdrawn (R98). -/
def withdrawStreamsOf (c : ChanId) (s : State) : State :=
  allCtxs.foldl (fun s k =>
    match streamAt k s with
    | some x => if x.chan = c then withdrawStream k s else s
    | none => s) s

/-- The claims the channel holds in ENTERING, ATTENDED or FLASH go LEAVING with reason CLOSED (R78 step 3). -/
def leaveClaimsOf (c : ChanId) (s : State) : State :=
  allUnits.foldl (fun s u => if (unitAt u s).claim.holder = some c then leaveClaim u .closed s else s) s

/-- R112: the channel's map job ends WITHDRAWN. -/
def withdrawJobsOf (c : ChanId) (s : State) : State := endJobs (fun j => j.chan == c) .withdrawn s

/-- R78 steps 1 to 4. -/
def closeChannel (c : ChanId) (s : State) : State :=
  leaveClaimsOf c (withdrawJobsOf c (withdrawStreamsOf c (setChan c (closedChannel (chanAt c s)) s)))

/-! ### Messages at a channel -/

/-- The channel an admitted CHANNEL OPEN leaves: IDLE, E = X, both buffers free (R77). -/
def openedChannel : Channel := { Channel.initial with state := .idle }

/-- The reply to CHANNEL OPEN or CHANNEL CLOSE, which occupies no buffer (R77, R78). -/
def answerMessage (c : ChanId) (b : Buf) (kind : ReqKind) (st : Status) (admitted : Bool) (s : State) : State :=
  offerReply { chan := c, buf := b, kind := kindCode kind, status := st, clamped := false, payload := [] } admitted s

/-- R77: CHANNEL OPEN. -/
def deliverOpen (c : ChanId) (b : Buf) (body : List Byte) (s : State) : State :=
  match (chanAt c s).state with
  | .closed =>
    if isDrained (chanAt c s) then
      match check c body s with
      | .refused st => answerMessage c b .channelOpen st false (noteRefusal c body st s)
      | .admitted r g p =>
        answerMessage c b .channelOpen .done true (setChan c openedChannel (noteAdmission c r g p.cost s))
    else answerOwn c b (kindCode .channelOpen) .notReady s
  | .halted => answerOwn c b (kindCode .channelOpen) .channelHalted s
  | _ => answerOwn c b (kindCode .channelOpen) .wrongState s

/-- R78: CHANNEL CLOSE. -/
def deliverClose (c : ChanId) (b : Buf) (body : List Byte) (s : State) : State :=
  match (chanAt c s).state with
  | .closed => answerOwn c b (kindCode .channelClose) .channelClosed s
  | _ =>
    match check c body s with
    | .refused st => answerMessage c b .channelClose st false (noteRefusal c body st s)
    | .admitted r g p =>
      answerMessage c b .channelClose .done true (closeChannel c (noteAdmission c r g p.cost s))

/-- BLOCK, STREAM END and STREAM ABORT: the kinds that need a stream binding (R71). -/
def needsStream : Option ReqKind → Bool
  | some .block => true
  | some .streamEnd => true
  | some .streamAbort => true
  | _ => false

/-- R72: the kinds a STREAMING channel decides at arrival; three of them only when no request pends. -/
def streamingTakes (pending : Bool) : Option ReqKind → Bool
  | some .block => true
  | some .keep => true
  | some .streamEnd => !pending
  | some .streamAbort => !pending
  | some .modeRelease => !pending
  | _ => false

/-- A message is taken into buffer E, which flips (R70). -/
def takeMessage (b : Buf) (body : List Byte) (ch : Channel) : Channel :=
  { setBuffer b (some body) ch with expect := otherBuf b }

/-- The message is taken and decided at once (R71, R72). -/
def takeAndDecide (c : ChanId) (b : Buf) (body : List Byte) (s : State) : State :=
  decideTaken c b body (setChan c (takeMessage b body (chanAt c s)) s)

/-- The message is taken as the staged request (R71). -/
def takeStaged (c : ChanId) (b : Buf) (body : List Byte) (s : State) : State :=
  setChan c { takeMessage b body (chanAt c s) with staged := some b } s

/-- R71, R72: a message that has passed the buffer test at a working channel. -/
def takeByState (c : ChanId) (b : Buf) (body : List Byte) (s : State) : State :=
  let ch := chanAt c s
  let k := kindOf (bodyKind body)
  match ch.state with
  | .streaming =>
    if streamingTakes ch.active.isSome k then takeAndDecide c b body s
    else answerOwn c b (bodyKind body) .wrongState s
  | .busy =>
    if needsStream k then answerOwn c b (bodyKind body) .wrongState s
    else if ch.staged.isSome then answerOwn c b (bodyKind body) .notReady s
    else takeStaged c b body s
  | _ =>
    if needsStream k then answerOwn c b (bodyKind body) .wrongState s
    else takeAndDecide c b body s

/-- R70: the buffer test of a message at a working channel. -/
def deliverWorking (c : ChanId) (b : Buf) (body : List Byte) (s : State) : State :=
  let ch := chanAt c s
  if b ≠ ch.expect then
    report ⟨.sequence, some (chanPort c), none, none⟩ (answerOwn c b (bodyKind body) .sequence s)
  else if (bufferAt b ch).isSome then answerOwn c b (bodyKind body) .notReady s
  else takeByState c b body s

/-- A request message other than CHANNEL OPEN and CHANNEL CLOSE (R70, R79, R83). -/
def deliverOther (c : ChanId) (b : Buf) (body : List Byte) (s : State) : State :=
  match (chanAt c s).state with
  | .closed => answerOwn c b (bodyKind body) .channelClosed s
  | .halted => answerOwn c b (bodyKind body) .channelHalted s
  | _ => deliverWorking c b body s

/-- A request message arrives at a channel: index, buffer bit and body (R68). -/
def deliver (c : ChanId) (b : Buf) (body : List Byte) (s : State) : State :=
  match kindOf (bodyKind body) with
  | some .channelOpen => deliverOpen c b body s
  | some .channelClose => deliverClose c b body s
  | _ => deliverOther c b body s

/-! ### CHANNEL HALT, CHANNEL CLEAR and the drain (R84, R85) -/

/-- R85 step 3: the channel IDLE again, E = X, both buffers free. -/
def clearedChannel (ch : Channel) : Channel :=
  { ch with state := .idle, expect := .x, bufX := none, bufY := none, haltCause := none, clearPending := false }

/-- A HALTED channel with clear pending has drained (R85). -/
def drainDue (ch : Channel) : Bool := ch.state == .halted && ch.clearPending && isDrained ch

/-- R85 step 3, where it is due. -/
def drainChannel (c : ChanId) (s : State) : State :=
  if drainDue (chanAt c s) then setChan c (clearedChannel (chanAt c s)) s else s

/-- R85 steps 1 to 3 on a HALTED channel without clear pending. -/
def clearChannel (c : ChanId) (s : State) : State :=
  let s1 := withdrawJobsOf c (withdrawStreamsOf c s)
  drainChannel c (setChan c { chanAt c s1 with clearPending := true } s1)

end Sys2Proof.Machine
end

