-- ==== Sys2Proof/Machine/Settle.lean ====
section
/-! DEFINITION. The part's internal steps: WAIT_LIST_PROMOTION (R52), STREAM_CONTEXT_FREED (R92), CHANNEL_DRAINED
(R85), MAP_JOB_START (R103) and STAGED_REQUEST_PROMOTION (R75), and their taking before the next event (log 1). -/

namespace Sys2Proof.Machine

/-- The outstanding entry has gone and an entry waits (R52). -/
def waitDue (un : UnitRec) : Bool := un.out.isNone && !un.wait.isEmpty

/-- The context is to be freed (R92). -/
def freeDue (x : Option Stream) : Bool :=
  match x with
  | some x => freeingDue x
  | none => false

/-- A working channel has a staged request and no active one (R75). -/
def stagedDue (ch : Channel) : Bool := isWorking ch && ch.active.isNone && ch.staged.isSome

/-- An internal step. -/
inductive Internal where
  | promoteWait (u : UnitId)
  | freeContext (k : CtxId)
  | drain (c : ChanId)
  | startJob
  | promoteStaged (c : ChanId)
  deriving DecidableEq, Repr

/-- The internal step taken next, if one is due; wait lists first, staged requests last, as R52 and R75 order the
completion of an entry before the check on the request behind it (log 1). -/
def nextInternal (s : State) : Option Internal :=
  ((allUnits.find? fun u => waitDue (unitAt u s)).map .promoteWait).or
    (((allCtxs.find? fun k => freeDue (streamAt k s)).map .freeContext).or
      (((allChans.find? fun c => drainDue (chanAt c s)).map .drain).or
        ((if mapStartDue s.map then some .startJob else none).or
          ((allChans.find? fun c => stagedDue (chanAt c s)).map .promoteStaged))))

/-- An internal step's effect. -/
def runInternal (i : Internal) (s : State) : State :=
  match i with
  | .promoteWait u => promoteWait u s
  | .freeContext k => freeStream k s
  | .drain c => drainChannel c s
  | .startJob => startJob s
  | .promoteStaged c => promoteStaged c s

/-- Internal steps are taken until none is due, at most `fuel` of them. -/
def settleFor : Nat → State → State
  | 0, s => s
  | fuel + 1, s =>
    match nextInternal s with
    | none => s
    | some i => settleFor fuel (runInternal i s)

/-- The number of members of a list where `f` holds. -/
def countWhere {α : Type} (f : α → Bool) (l : List α) : Nat := (l.filter f).length

/-- No more internal steps than this can follow one another: each promotion of a staged request starts at most one
job, stream or entry, and every other step uses one up. -/
def settleBound (s : State) : Nat :=
  3 * countWhere (fun c => (chanAt c s).staged.isSome) allChans + (jobsOf s.map).length + 1 +
    countWhere (fun k => (streamAt k s).isSome) allCtxs + countWhere (fun c => (chanAt c s).clearPending) allChans +
    countWhere (fun u => (unitAt u s).out.isNone) allUnits

/-- All internal steps that are due are taken (log 1). -/
def settle (s : State) : State := settleFor (settleBound s) s

/-- Every due WAIT_LIST_PROMOTION is taken. -/
def promoteWaits (s : State) : State := allUnits.foldl (fun s u => promoteWait u s) s

/-- The model's count of moments (log 11): entries placed by one command enter their queues together. -/
def advance (s : State) : State := { s with moment := s.moment + 1 }

/-- What every command from outside acts on: nothing is taken while RESET_N is low (R168); otherwise the due internal
steps are taken, a new moment begins, and the command acts. -/
def running (f : State → State) (s : State) : Host.Outcome State Fault Refusal :=
  if s.inReset then .next s else .next (f (advance (settle s)))

/-- What the rows of the internal steps act on: the step alone (log 1). -/
def runningInternal (f : State → State) (s : State) : Host.Outcome State Fault Refusal :=
  if s.inReset then .next s else .next (f s)

/-! ### The rows of the internal steps -/

/-- WAIT_LIST_PROMOTION (R52 step 3). -/
def execWaitListPromotion (u : UnitId) (s : State) : Host.Outcome State Fault Refusal :=
  runningInternal (promoteWait u) s

/-- STREAM_CONTEXT_FREED (R92, R73). -/
def execStreamContextFreed (k : CtxId) (s : State) : Host.Outcome State Fault Refusal :=
  runningInternal (freeStream k) s

/-- MAP_JOB_START (R103 to R105). -/
def execMapJobStart (s : State) : Host.Outcome State Fault Refusal :=
  runningInternal startJob s

/-- STAGED_REQUEST_PROMOTION (R75 step 3); an entry that waits behind a completed one is promoted before (R52). -/
def promoteStagedRow (c : ChanId) (s : State) : State :=
  if stagedDue (chanAt c s) then promoteStaged c (promoteWaits s) else s

/-- STAGED_REQUEST_PROMOTION. -/
def execStagedRequestPromotion (c : ChanId) (s : State) : Host.Outcome State Fault Refusal :=
  runningInternal (promoteStagedRow c) s

/-- CHANNEL_DRAINED (R85). -/
def execChannelDrained (c : ChanId) (s : State) : Host.Outcome State Fault Refusal :=
  runningInternal (drainChannel c) s

end Sys2Proof.Machine
end

