-- ==== Sys2Proof/Machine/Messages.lean ====
section
/-! DEFINITION. The seventeen request rows: each is a request message of its kind arriving at a channel. -/

namespace Sys2Proof.Machine

/-- A request row: the message, with its kind's code, arrives at its channel (R68, R70, R77, R78). -/
def arrive (k : ReqKind) (m : ReqMsg) (s : State) : State := deliver m.chan m.buf (rowBody k m) s

/-- CHANNEL_OPEN (R77). -/
def execChannelOpen (m : ReqMsg) (s : State) : Host.Outcome State Fault Refusal := running (arrive .channelOpen m) s

/-- CHANNEL_CLOSE (R78). -/
def execChannelClose (m : ReqMsg) (s : State) : Host.Outcome State Fault Refusal := running (arrive .channelClose m) s

/-- ITEM_READ (R26, R50). -/
def execItemRead (m : ReqMsg) (s : State) : Host.Outcome State Fault Refusal := running (arrive .itemRead m) s

/-- FAULT_READ (R26, R50). -/
def execFaultRead (m : ReqMsg) (s : State) : Host.Outcome State Fault Refusal := running (arrive .faultRead m) s

/-- FAULT_CLEAR (R29, R31, R39). -/
def execFaultClear (m : ReqMsg) (s : State) : Host.Outcome State Fault Refusal := running (arrive .faultClear m) s

/-- ROUTINE (R29, R31, R39). -/
def execRoutine (m : ReqMsg) (s : State) : Host.Outcome State Fault Refusal := running (arrive .routine m) s

/-- WINDOW_READ (R32). -/
def execWindowRead (m : ReqMsg) (s : State) : Host.Outcome State Fault Refusal := running (arrive .windowRead m) s

/-- WINDOW_WRITE (R31, R32, R39). -/
def execWindowWrite (m : ReqMsg) (s : State) : Host.Outcome State Fault Refusal := running (arrive .windowWrite m) s

/-- MAP_READ (R33, R102). -/
def execMapRead (m : ReqMsg) (s : State) : Host.Outcome State Fault Refusal := running (arrive .mapRead m) s

/-- MAP_WRITE (R34, R102). -/
def execMapWrite (m : ReqMsg) (s : State) : Host.Outcome State Fault Refusal := running (arrive .mapWrite m) s

/-- MODE_CLAIM (R55 to R57). -/
def execModeClaim (m : ReqMsg) (s : State) : Host.Outcome State Fault Refusal := running (arrive .modeClaim m) s

/-- KEEP (R59). -/
def execKeep (m : ReqMsg) (s : State) : Host.Outcome State Fault Refusal := running (arrive .keep m) s

/-- MODE_RELEASE (R62). -/
def execModeRelease (m : ReqMsg) (s : State) : Host.Outcome State Fault Refusal := running (arrive .modeRelease m) s

/-- STREAM_OPEN (R35, R87). -/
def execStreamOpen (m : ReqMsg) (s : State) : Host.Outcome State Fault Refusal := running (arrive .streamOpen m) s

/-- BLOCK (R88 to R90). -/
def execBlock (m : ReqMsg) (s : State) : Host.Outcome State Fault Refusal := running (arrive .block m) s

/-- STREAM_END (R93). -/
def execStreamEnd (m : ReqMsg) (s : State) : Host.Outcome State Fault Refusal := running (arrive .streamEnd m) s

/-- STREAM_ABORT (R94). -/
def execStreamAbort (m : ReqMsg) (s : State) : Host.Outcome State Fault Refusal := running (arrive .streamAbort m) s

end Sys2Proof.Machine
end

