-- ==== Sys2Proof/Machine/Consequences.lean ====
section
/-! DEFINITION. The consequences of one event in several blocks, which "need no order among themselves" (R17, R18,
R42, R43, R129, R131, R157): each as one step, taken in the order the command's operand gives (log 4). -/

namespace Sys2Proof.Machine

/-- One consequence of an event in one block. -/
inductive Consequence where
  /-- a rise of MOVE or RUN reaches a unit's claim (R42, R43) -/
  | interlockClaim (u : UnitId)
  /-- the grants `ended` in one moment, `g` among them, reach the single requests at a unit before the departure of the
  claim there that carries `g` does (R17, R64) -/
  | grantRequests (u : UnitId) (g : Slot) (ended : List Slot)
  /-- an ended grant reaches a unit's claim (R18) -/
  | grantClaim (u : UnitId) (g : Slot)
  /-- a rise of MOVE reaches a unit's entries (R42) -/
  | withdrawMove (u : UnitId)
  /-- a rise of RUN reaches a unit's entries (R43) -/
  | withdrawRun (u : UnitId)
  /-- a rise of MOVE or RUN reaches a stream (R42, R43) -/
  | streamInterlock (k : CtxId)
  /-- an ended grant reaches a stream (R18) -/
  | streamGrant (k : CtxId) (g : Slot)
  /-- a rise of MOVE reaches the map engine (R113) -/
  | mapMove
  /-- a rise of RUN reaches the map engine (R113) -/
  | mapRun
  /-- an ended grant reaches the map engine (R112) -/
  | mapGrant (g : Slot)
  /-- a bus end reaches a unit (R66) -/
  | unitBusEnd (u : UnitId) (b : BusId) (reason : ClaimReason) (st : Status)
  /-- a bus end reaches a stream (R97) -/
  | streamBusEnd (k : CtxId) (b : BusId)
  /-- a bus end reaches the map engine (R114) -/
  | mapBusEnd (b : BusId) (st : Status)
  /-- the link DOWN reaches the channel engine (R80) -/
  | closeSpt
  deriving DecidableEq, Repr

/-- The claim is FLASH, or ENTERING with a target or prior mode of FLASH (R42). -/
def flashBound (cl : Claim) : Bool :=
  cl.state == .flash || (cl.state == .entering && (cl.target == some .flash || cl.prior == some .flash))

/-- The entries a rise of MOVE withdraws: FAULT ERASE, ROUTINE RUN and every store (R42). -/
def moveWithdraws (e : Entry) : Bool := isActuation e || isStore e

/-- The entry stores to a window that is not LIVE. -/
def storesToStill (u : UnitId) (s : State) (e : Entry) : Bool :=
  isStore e &&
    (match e.window with
      | some i => !isLive u i s
      | none => true)

/-- The entry is a MODE ENTER for FLASH. -/
def entersFlash (e : Entry) : Bool :=
  match e.msg with
  | .modeEnter .flash => true
  | _ => false

/-- The entries a rise of RUN withdraws: stores to windows that are not LIVE and MODE ENTERs for FLASH (R43). -/
def runWithdraws (u : UnitId) (s : State) (e : Entry) : Bool := storesToStill u s e || entersFlash e

/-- The entry is a single request at the unit, admitted under one of the grants `ended` (R17). -/
def singleRequestUnder (ended : List Slot) (e : Entry) : Bool :=
  match e.source, e.grant with
  | .channel _, some g => ended.contains g
  | _, _ => false

/-- The stream in a context satisfies `p`. -/
def streamHas (k : CtxId) (p : Stream → Bool) (s : State) : Bool :=
  match streamAt k s with
  | some x => p x
  | none => false

/-- SPT.0 to SPT.3 are closed in index order; a CLOSED one is unchanged (R80). -/
def closeSptChannels (s : State) : State :=
  (List.finRange 4).foldl (fun s i =>
    if (chanAt (chanOf .spt i) s).state = .closed then s else closeChannel (chanOf .spt i) s) s

/-- A consequence's effect on its block. -/
def runConsequence (q : Consequence) (s : State) : State :=
  match q with
  | .interlockClaim u => if flashBound (unitAt u s).claim then leaveClaim u .interlock s else s
  | .grantRequests u g ended =>
    if (unitAt u s).claim.grant = some g then leaveClaimSparing (singleRequestUnder ended) u .grantEnded s else s
  | .grantClaim u g => if (unitAt u s).claim.grant = some g then leaveClaim u .grantEnded s else s
  | .withdrawMove u => withdrawEntries u moveWithdraws .interlock s
  | .withdrawRun u => withdrawEntries u (runWithdraws u s) .interlock s
  | .streamInterlock k => concludeStream k .aborted s
  | .streamGrant k g => if streamHas k (fun x => x.grant == g) s then concludeStream k .aborted s else s
  | .mapMove => endJobs (fun j => j.kind == .write) .interlock s
  | .mapRun => endJobs (fun j => j.kind == .write && !isLive j.unit j.window s) .interlock s
  | .mapGrant g => endJobs (fun j => j.grant == g) .withdrawn s
  | .unitBusEnd u b reason st => if unitBus u s = some b then endUnitWork u reason st s else s
  | .streamBusEnd k b =>
    if streamHas k (fun x => unitBus x.unit s == some b) s then concludeStream k .failed s else s
  | .mapBusEnd b st => endJobs (fun j => unitBus j.unit s == some b) st s
  | .closeSpt => closeSptChannels s

/-- The consequences are taken one after another: the head of `picks` names, among those left, the one taken next; with
no picks left, in the order they stand (log 4). -/
def runInOrder : Nat → List Nat → List Consequence → State → State
  | 0, _, _, s => s
  | fuel + 1, picks, left, s =>
    match left[picks.headD 0 % left.length]? with
    | none => s
    | some q => runInOrder fuel picks.tail (left.eraseIdx (picks.headD 0 % left.length)) (runConsequence q s)

/-- All consequences of an event, in the order the command's operand gives. -/
def runAll (picks : List Nat) (all : List Consequence) (s : State) : State := runInOrder all.length picks all s

/-! ### The consequences of each event -/

/-- A rise of MOVE (R42). -/
def moveConsequences : List Consequence :=
  allUnits.map .interlockClaim ++ allUnits.map .withdrawMove ++ allCtxs.map .streamInterlock ++ [.mapMove]

/-- A rise of RUN (R43). -/
def runConsequences : List Consequence :=
  allUnits.map .interlockClaim ++ allUnits.map .withdrawRun ++ allCtxs.map .streamInterlock ++ [.mapRun]

/-- The end of grant `g`, one of the grants `ended` in one moment (R17, R18). Its reaching a unit's single requests, which then complete normally, and its reaching the
unit's claim, whose departure ends the holder's, are taken in either order (R64's last paragraph, log 33): the one taken
first makes the claim leave, and the other finds it gone. In the order they stand the requests are reached first. -/
def grantConsequences (ended : List Slot) (g : Slot) : List Consequence :=
  (allUnits.map fun u => .grantRequests u g ended) ++ (allUnits.map fun u => .grantClaim u g) ++ (allCtxs.map fun k => .streamGrant k g) ++ [.mapGrant g]

/-- A bus leaving ACTIVE (R129, R131). -/
def busConsequences (b : BusId) (reason : ClaimReason) (st : Status) : List Consequence :=
  (allUnits.map fun u => .unitBusEnd u b reason st) ++ (allCtxs.map fun k => .streamBusEnd k b) ++ [.mapBusEnd b st]

end Sys2Proof.Machine
end

