-- ==== Sys2Proof/Machine/Buses.lean ====
section
/-! DEFINITION. The unit bus controllers: arbitration and sending (R120, R121), replies (R123 to R127), transmit
errors and bus-off (R128 to R130), sleep (R131, R132). -/

namespace Sys2Proof.Machine

/-! ### Beginning and sending messages -/

/-- `a` is begun before `b`: by class, then by age, then by unit number (R120). -/
def beforeInQueue (a b : QEntry) : Bool :=
  a.cls < b.cls ||
    (a.cls == b.cls && (a.entered < b.entered || (a.entered == b.entered && a.unit.val < b.unit.val)))

/-- The better of the pick so far and the next entry; on a tie the one that stands first. -/
def betterEntry (best : Option QEntry) (q : QEntry) : Option QEntry :=
  match best with
  | none => some q
  | some p => if beforeInQueue q p then some q else some p

/-- The arbiter's pick (R120). -/
def pickEntry (queue : List QEntry) : Option QEntry := queue.foldl betterEntry none

/-- The body of a queue entry's message (R121). -/
def entryBody (q : QEntry) : List Byte := unitMsgBody q.tag q.msg

/-- The frame of a segment of a queue entry's message (R121, R165). -/
def entryFrame (q : QEntry) (seg : Nat) : Frame := segmentFrame q.reqId 0 .x (entryBody q) seg

/-- The controller can begin a message (R120); the wire must be free of an earlier frame (log 13). -/
def canBegin (b : Bus) : Bool := b.state == .active && b.tx.isNone && b.wire.isNone

/-- R120, R121: the arbiter picks an entry and its first segment is begun. -/
def beginMessage (b : BusId) (s : State) : State :=
  let bus := busAt b s
  if canBegin bus then
    match pickEntry bus.queue with
    | none => s
    | some q =>
      report ⟨.unitMessages, q.source.bind sourcePort, some b, some q.unit⟩
        (setBus b { bus with tx := some ⟨q, 0⟩, wire := some (entryFrame q 0) } s)
  else s

/-- The entry's place in the queue: its unit, and whether it is a request message or a PRESENCE frame (R118). -/
def sameEntry (q r : QEntry) : Bool := q.unit == r.unit && q.source.isSome == r.source.isSome

/-- R124: a request message whose last segment has been sent awaits its reply. -/
def awaitReply (q : QEntry) (s : State) : State :=
  let un := unitAt q.unit s
  match q.source, un.defn with
  | some _, some d =>
    setUnit q.unit { un with awaited := some { tag := q.tag, msg := q.msg, waits := 0, timer := d.timeout } } s
  | _, _ => s

/-- R121, R124: the frame on the wire has been sent. The error count falls by 1 (R128); the next segment follows, or
the message leaves the queue. -/
def frameSent (b : BusId) (s : State) : State :=
  let bus := busAt b s
  match bus.wire with
  | none => s
  | some _ =>
    let bus1 := { bus with errors := bus.errors - 1 }
    match bus.tx with
    | none => setBus b { bus1 with wire := none } s
    | some t =>
      if t.seg + 1 < segmentCount (entryBody t.entry).length then
        setBus b { bus1 with tx := some ⟨t.entry, t.seg + 1⟩, wire := some (entryFrame t.entry (t.seg + 1)) } s
      else
        awaitReply t.entry
          (setBus b { bus1 with
            tx := none, wire := none, queue := bus.queue.filter fun q => !sameEntry q t.entry } s)

/-! ### Leaving and returning to ACTIVE -/

/-- The unit is defined on the bus. -/
def onBus (b : BusId) (un : UnitRec) : Bool :=
  match un.defn with
  | some d => d.bus == b
  | none => false

/-- The awaited reply and the reassembly of a bus's unit end (R129 step 2). -/
def dropReplies (un : UnitRec) : UnitRec := { un with awaited := none, reasm := none }

/-- R129 step 2, R131: the bus's queue is emptied, the message in transmission ends, every awaited reply and
reassembly of its units ends. -/
def emptyBus (b : BusId) (s : State) : State :=
  let s1 := setBus b { busAt b s with queue := [], tx := none } s
  { s1 with units := Vector.ofFn fun u => if onBus b (s.units.get u) then dropReplies (s.units.get u) else s.units.get u }

/-- R129: bus-off. -/
def busOff (b : BusId) (picks : List Nat) (s : State) : State :=
  let s1 := emptyBus b s
  let s2 := setBus b { busAt b s1 with
    state := .off, recovery := some Config.recoveryMs, errors := 255, wire := none } s1
  runAll picks (busConsequences b .busFault .busFault) (handBusFault s2)

/-- R128: the frame on the wire fails: the count rises by 8 and the frame is sent again, or the bus goes OFF. A frame
that fails after its message was dropped is not sent again (R116, R131); on a bus that is not ACTIVE the count is
held at 255 (log 28). -/
def frameFailed (b : BusId) (picks : List Nat) (s : State) : State :=
  let bus := busAt b s
  match bus.wire with
  | none => s
  | some _ =>
    if bus.errors + 8 ≤ 255 then
      setBus b { bus with errors := bus.errors + 8, wire := if bus.tx.isSome then bus.wire else none } s
    else if bus.state = .active then busOff b picks s
    else setBus b { bus with errors := 255, wire := none } s

/-- R130: the recovery timer expires. -/
def recoveryExpires (b : BusId) (s : State) : State :=
  let bus := busAt b s
  match bus.recovery with
  | none => s
  | some _ =>
    if bus.state = .off then setBus b { bus with state := .active, errors := 0, recovery := none } s
    else setBus b { bus with recovery := none } s

/-- R131: the controller's own part of a fall of IGN. -/
def sleepBus (b : BusId) (s : State) : State :=
  match (busAt b s).state with
  | .active =>
    let s1 := emptyBus b s
    setBus b { busAt b s1 with state := .asleep } s1
  | .off => setBus b { busAt b s with state := .asleep, recovery := none } s
  | .asleep => s

/-- The work a fall of IGN ends: that of the buses that were ACTIVE (R131). -/
def sleepConsequences (s : State) : List Consequence :=
  (if (busAt .ub0 s).state = .active then busConsequences .ub0 .ignition .unitAsleep else []) ++
    (if (busAt .ub1 s).state = .active then busConsequences .ub1 .ignition .unitAsleep else [])

/-- R44, R131: IGN falls. -/
def ignFalls (picks : List Nat) (s : State) : State :=
  runAll picks (sleepConsequences s) (sleepBus .ub1 (sleepBus .ub0 s))

/-- R132: the controller's part of a rise of IGN. -/
def wakeBus (b : BusId) (s : State) : State :=
  if (busAt b s).state = .asleep then setBus b { busAt b s with state := .active } s else s

/-- R44, R132: IGN rises. -/
def ignRises (s : State) : State := wakeBus .ub1 (wakeBus .ub0 s)

/-! ### Replies -/

/-- A reply reassembly after a segment: the reassembly left, and the body if the reply is complete (R123). -/
structure ReasmStep where
  left : Option UnitReasm
  body : Option (List Byte)

/-- R123: `data` joins the bytes of a reassembly. Pad bytes of a LAST frame of the shortest length that holds what
remains are not data (R165, log 14). -/
def addUnitData (length : Nat) (bytes : List Byte) (next : Nat) (last : Bool) (frameLength : Nat) (data : List Byte) :
    ReasmStep :=
  let rest := length - bytes.length
  let data1 := if last && frameLength == canFdLength (2 + rest) then data.take rest else data
  let all := bytes ++ data1
  if length < all.length ∨ Config.unitBodyMax < all.length then ⟨none, none⟩
  else if last then (if all.length = length then ⟨none, some all⟩ else ⟨none, none⟩)
  else ⟨some { length := length, bytes := all, next := next }, none⟩

/-- R123: a unit's reassembly takes a segment. R123 tests no index of a segment marked first: the model takes it
whatever its index is, and expects index 1 next. Nor does it say what follows index 3: the model expects 4, which no segment
carries (DESIGN CHOICE, log 32). -/
def takeUnitSegment (r : Option UnitReasm) (g : Segment) (frameLength : Nat) : ReasmStep :=
  if g.first then addUnitData g.length [] 1 g.last frameLength g.data
  else
    match r with
    | none => ⟨none, none⟩
    | some x =>
      if g.index = x.next then addUnitData x.length x.bytes (x.next + 1) g.last frameLength g.data
      else ⟨none, none⟩

/-- A matched unit reply (R124). -/
inductive UnitReply where
  | positive (data : List Byte)
  | negative (reason : Byte)
  | wait
  deriving DecidableEq, Repr

/-- R124's table for POSITIVE: the data of a payload that fits the awaited message. -/
def positiveData (m : UnitMsg) (payload : List Byte) : Option (List Byte) :=
  match m with
  | .memoryFetch _ n => if payload.length = n then some payload else none
  | .itemFetch _ => if payload.length ≤ 240 then some payload else none
  | .faultList => if payload.length ≤ 240 then some payload else none
  | .routineRun _ _ => if payload.length ≤ 240 then some payload else none
  | .faultErase => some []
  | .memoryStore _ _ _ => some []
  | .modeEnter _ => some []
  | .modeBase => some []
  | .presence => none

/-- R124: a reply's kind and payload, where they fit the awaited message. -/
def fitReply (m : UnitMsg) (kind : Byte) (payload : List Byte) : Option UnitReply :=
  if kind = 1 then (positiveData m payload).map .positive
  else if kind = 2 then
    match payload with
    | [reason] => some (.negative reason)
    | _ => none
  else if kind = 3 then (if payload = [] then some .wait else none)
  else none

/-- R124, R166: a complete reply that is matched by the awaited reply. -/
def matchReply (aw : Awaited) (body : List Byte) : Option UnitReply :=
  match body with
  | kind :: tag :: len :: _ :: payload =>
    if tag.toNat % 16 = aw.tag.toNat ∧ len.toNat = payload.length then fitReply aw.msg kind payload else none
  | _ => none

/-- R127: a stray reply is discarded and reported. -/
def strayReply (b : BusId) (u : UnitId) (s : State) : State := report ⟨.lateReply, none, some b, some u⟩ s

/-- An occurrence of a unit's outstanding entry: its source's port, the bus and the unit (R125, R126). -/
def entryReport (e : Event) (port : Option Port) (b : Option BusId) (u : UnitId) (s : State) : State :=
  report ⟨e, port, b, some u⟩ s

/-- The port of the source of a unit's outstanding entry. -/
def outPort (u : UnitId) (s : State) : Option Port := (unitAt u s).out.bind fun e => sourcePort e.source

/-- R125: a matched WAIT. The ninth completes the entry TIMEOUT and is two occurrences of R136, which R125 does not order:
WAIT_NOTICES is reported before TIMEOUTS, and both after the completion (DESIGN CHOICE, log 16). -/
def takeWait (b : BusId) (u : UnitId) (aw : Awaited) (s : State) : State :=
  if aw.waits < 8 then
    entryReport .waitNotices (outPort u s) (some b) u
      (setUnit u { unitAt u s with awaited := some { aw with waits := aw.waits + 1, timer := Config.waitMs } } s)
  else
    entryReport .timeouts (outPort u s) (some b) u
      (entryReport .waitNotices (outPort u s) (some b) u (completeOut u .timeout s))

/-- R124 to R127: a complete reply of a unit. -/
def takeReply (b : BusId) (u : UnitId) (body : List Byte) (s : State) : State :=
  match (unitAt u s).awaited with
  | none => strayReply b u s
  | some aw =>
    match matchReply aw body with
    | none => strayReply b u s
    | some (.positive data) => completeOut u (.positive data) s
    | some (.negative reason) => completeOut u (.negative reason) s
    | some .wait => takeWait b u aw s

/-- The DEFINED unit of a bus with a reply id (R123). -/
def unitOfReplyId (b : BusId) (id : CanId) (s : State) : Option UnitId :=
  allUnits.find? fun u =>
    match (unitAt u s).defn with
    | some d => d.bus == b && d.repId == id
    | none => false

/-- R117, R123: a frame arrives on a unit bus. A frame of fewer than 2 bytes carries no segment (log 15). -/
def unitFrame (b : BusId) (id : CanId) (frame : List Byte) (s : State) : State :=
  if (busAt b s).state = .active then
    match unitOfReplyId b id s, parseSegment frame with
    | some u, some g =>
      let step := takeUnitSegment (unitAt u s).reasm g frame.length
      let s1 := setUnit u { unitAt u s with reasm := step.left } s
      match step.body with
      | some body => takeReply b u body s1
      | none => s1
    | _, _ => s
  else s

/-- R126: the reply timer expires. -/
def replyTimerExpires (u : UnitId) (s : State) : State :=
  match (unitAt u s).awaited with
  | none => s
  | some _ => entryReport .timeouts (outPort u s) (unitBus u s) u (completeOut u .timeout s)

/-! ### The rows -/

/-- MESSAGE_BEGIN. -/
def execMessageBegin (b : BusId) (s : State) : Host.Outcome State Fault Refusal := running (beginMessage b) s

/-- FRAME_SENT. -/
def execFrameSent (b : BusId) (s : State) : Host.Outcome State Fault Refusal := running (frameSent b) s

/-- FRAME_FAILED. -/
def execFrameFailed (b : BusId) (picks : List Nat) (s : State) : Host.Outcome State Fault Refusal :=
  running (frameFailed b picks) s

/-- RECOVERY_TIMER_EXPIRY. -/
def execRecoveryTimerExpiry (b : BusId) (s : State) : Host.Outcome State Fault Refusal := running (recoveryExpires b) s

/-- UNIT_REPLY_SEGMENT. -/
def execUnitReplySegment (b : BusId) (id : CanId) (frame : List Byte) (s : State) :
    Host.Outcome State Fault Refusal :=
  running (unitFrame b id frame) s

/-- REPLY_TIMER_EXPIRY. -/
def execReplyTimerExpiry (u : UnitId) (s : State) : Host.Outcome State Fault Refusal := running (replyTimerExpires u) s

end Sys2Proof.Machine
end

