-- ==== Sys2Proof/Machine/Lines.lean ====
section
/-! DEFINITION. The interlock lines and their filters (R41), and the edges they raise (R42 to R44). -/

namespace Sys2Proof.Machine

/-- R41: a raw line takes a level; its filter timer starts, restarts or stops. A command that names the present level
is no change (log 5). -/
def rawChange (l : Line) (level : Bool) (s : State) : State :=
  if s.raw.get l = level then s
  else
    { s with
      raw := s.raw.set l level
      filterTimers := s.filterTimers.set l (if level = s.filtered.get l then none else some Config.filterMs) }

/-- R42: MOVE rises. -/
def moveRises (picks : List Nat) (s : State) : State := runAll picks moveConsequences s

/-- R43: RUN rises. -/
def runRises (picks : List Nat) (s : State) : State := runAll picks runConsequences s

/-- The edge event of a line that has taken a level (R42 to R44); a fall of MOVE or RUN changes the state only. -/
def edge (l : Line) (level : Bool) (picks : List Nat) (s : State) : State :=
  match l, level with
  | .move, true => moveRises picks s
  | .run, true => runRises picks s
  | .ign, true => ignRises s
  | .ign, false => ignFalls picks s
  | .move, false => s
  | .run, false => s

/-- The filtered state takes a level and the filter timer stops (R41). -/
def takeLevel (l : Line) (level : Bool) (s : State) : State :=
  { s with filtered := s.filtered.set l level, filterTimers := s.filterTimers.set l none }

/-- R41: a running filter timer expires: the filtered state takes the raw level, and the change is an edge event. -/
def filterExpires (l : Line) (picks : List Nat) (s : State) : State :=
  match s.filterTimers.get l with
  | none => s
  | some _ =>
    if s.raw.get l = s.filtered.get l then takeLevel l (s.raw.get l) s
    else edge l (s.raw.get l) picks (takeLevel l (s.raw.get l) s)

/-- RAW_LINE_CHANGE: while RESET_N is low the pin's level is still the truck's, and nothing else is taken (R168). -/
def execRawLineChange (l : Line) (level : Bool) (s : State) : Host.Outcome State Fault Refusal :=
  if s.inReset then .next { s with raw := s.raw.set l level }
  else .next (rawChange l level (advance (settle s)))

/-- FILTER_TIMER_EXPIRY. -/
def execFilterTimerExpiry (l : Line) (picks : List Nat) (s : State) : Host.Outcome State Fault Refusal :=
  running (filterExpires l picks) s

end Sys2Proof.Machine
end

