-- ==== Sys2Proof/Machine/Grants.lean ====
section
/-! DEFINITION. The grant table's own events and commands: install (R4, R5), the service link (R6, R7), suspend,
resume, recharge, revoke and expiry (R8 to R13), the end of a grant (R17), query (R19). -/

namespace Sys2Proof.Machine

/-! ### The end of a grant -/

/-- R17 steps 1 and 2: the GRANT_END record is written and the slot becomes VACANT. -/
def vacateGrant (g : Slot) (reason : EndReason) (s : State) : State :=
  let x := grantAt g s
  setGrant g Grant.vacant
    (writeRecord (some x.requester) none (some g) none (.grantEnd reason x.state x.allowance x.counter) s)

/-- R17, R18: a grant ends, and the ended number reaches the three blocks. The single requests admitted under it
complete normally (R17), but for those of a claim's holder that the claim's departure by this end reaches first (R64: log
33). -/
def endGrant (g : Slot) (reason : EndReason) (picks : List Nat) (s : State) : State :=
  runAll picks (grantConsequences [g] g) (vacateGrant g reason s)

/-- R12: the expiry field reaches 0. -/
def grantExpires (g : Slot) (picks : List Nat) (s : State) : State :=
  let x := grantAt g s
  if x.state = .vacant ∨ x.expiry = 0 then s else endGrant g .expired picks s

/-! ### The service link -/

/-- R6: an ARMED grant becomes ACTIVE. -/
def armedToActive (g : Grant) : Grant := if g.state = .armed then { g with state := .active } else g

/-- R6: the link goes UP. -/
def activateArmed (s : State) : State := { s with grants := Vector.ofFn fun i => armedToActive (s.grants.get i) }

/-- R7: a grant that ends LAPSED at link DOWN. -/
def lapses (g : Grant) : Bool :=
  g.requester == .spt && g.lapse && (g.state == .active || g.state == .suspended || g.state == .spent)

/-- The slots that lapse, in ascending order (R7). -/
def lapsingSlots (s : State) : List Slot := allSlots.filter fun g => lapses (grantAt g s)

/-- R7: every lapsing grant's slot is recorded and vacated, in ascending slot order. -/
def vacateLapsing (s : State) : State := (lapsingSlots s).foldl (fun s g => vacateGrant g .lapsed s) s

/-! ### Commands -/

/-- A slot argument 00h to 1Fh. -/
def slotOf (b : Byte) : Option Slot := if h : b.toNat < 32 then some ⟨b.toNat, h⟩ else none

/-- The window rights of a grant's rights byte: 2 bits per index (11.6). -/
def rightsOf (b : Byte) : Option (Vector Right 4) :=
  match rightOf (b.toNat % 4), rightOf (b.toNat / 4 % 4), rightOf (b.toNat / 16 % 4), rightOf (b.toNat / 64) with
  | some a, some b, some c, some d => some #v[a, b, c, d]
  | _, _, _, _ => none

/-- The largest allowance (R4). -/
def maxAllowance : Nat := 1048575

/-- The argument checks of R4 but for the slot. -/
def installArgsOk (a : GrantArgs) : Bool :=
  (portOf a.requester).isSome && a.unitValue.toNat ≤ 15 && a.unitMask.toNat ≤ 15 &&
    (a.classes.toNat != 0 && a.classes.toNat < 256) && (rightsOf a.rights).isSome &&
    a.allowance.toNat ≤ maxAllowance

/-- The budget counter loaded from an allowance (R5): 0, or 1,048,576 minus the allowance. -/
def loadedCounter (allowance : Nat) : BitVec 20 :=
  if allowance = 0 then 0 else BitVec.ofNat 20 (counterLimit - allowance)

/-- The grant an accepted install writes (R5). -/
def installedGrant (a : GrantArgs) (p : Port) (rights : Vector Right 4) (linkUp : Bool) : Grant where
  state := if p = .spt && yes a.lapse && !linkUp then .armed else .active
  requester := p
  unitValue := BitVec.ofNat 4 a.unitValue.toNat
  unitMask := BitVec.ofNat 4 a.unitMask.toNat
  classes := BitVec.ofNat 8 a.classes.toNat
  itemValue := a.itemValue
  itemMask := a.itemMask
  routineValue := a.routineValue
  routineMask := a.routineMask
  rights := rights
  allowance := BitVec.ofNat 20 a.allowance.toNat
  counter := loadedCounter a.allowance.toNat
  escalate := yes a.escalate
  expiry := a.expiry
  subMs := 0
  lapse := yes a.lapse

/-- The slot an install with good arguments uses, or its refusal (R4). -/
def chooseSlot (b : Byte) (s : State) : Except Status Slot :=
  match slotOf b with
  | some g => if (grantAt g s).state = .vacant then .ok g else .error .inUse
  | none =>
    if b = 0xFF#8 then
      match allSlots.find? fun g => (grantAt g s).state == .vacant with
      | some g => .ok g
      | none => .error .noRoom
    else .error .badArgument

/-- The GRANT_START record of slot `g` (R5, R11). -/
def recordStart (g : Slot) (recharged : Bool) (s : State) : State :=
  let x := grantAt g s
  writeRecord (some x.requester) none (some g) none (.grantStart recharged x.allowance x.state) s

/-- GRANT INSTALL (R4, R5). -/
def grantInstall (env : Envelope) (a : GrantArgs) (s : State) : State :=
  match portOf a.requester, rightsOf a.rights, installArgsOk a && ((slotOf a.slot).isSome || a.slot == 0xFF#8) with
  | some p, some rights, true =>
    match chooseSlot a.slot s with
    | .error st => answerCommand env cmdGrantInstall st [] s
    | .ok g =>
      answerCommand env cmdGrantInstall .done [byte g.val]
        (recordStart g false (setGrant g (installedGrant a p rights s.spt.link) s))
  | _, _, _ => answerCommand env cmdGrantInstall .badArgument [] s

/-- R8: a command on the grant in a named slot: BAD_ARGUMENT, WRONG_STATE for a VACANT slot, or `f`. -/
def onGrant (env : Envelope) (code : Byte) (slot : Byte) (f : Slot → State → State) (s : State) : State :=
  match slotOf slot with
  | none => answerCommand env code .badArgument [] s
  | some g =>
    if (grantAt g s).state = .vacant then answerCommand env code .wrongState [] s
    else f g s

/-- GRANT SUSPEND (R9). -/
def grantSuspend (env : Envelope) (slot : Byte) (s : State) : State :=
  onGrant env cmdGrantSuspend slot (fun g s =>
    if (grantAt g s).state = .armed then answerCommand env cmdGrantSuspend .wrongState [] s
    else answerCommand env cmdGrantSuspend .done [] (setGrant g { grantAt g s with state := .suspended } s)) s

/-- The state a resumed grant takes (R10). -/
def resumedState (x : Grant) : GrantState :=
  if x.state = .suspended then (if canPay x 1 then .active else .spent) else x.state

/-- GRANT RESUME (R10). -/
def grantResume (env : Envelope) (slot : Byte) (s : State) : State :=
  onGrant env cmdGrantResume slot (fun g s =>
    let x := grantAt g s
    if x.state = .armed then answerCommand env cmdGrantResume .wrongState [] s
    else
      answerCommand env cmdGrantResume .done [grantStateCode (resumedState x)]
        (setGrant g { x with state := resumedState x } s)) s

/-- The state a recharged grant takes (R11). -/
def rechargedState : GrantState → GrantState
  | .active => .active
  | .spent => .active
  | .suspended => .suspended
  | .armed => .armed
  | .vacant => .vacant

/-- A recharged grant (R11). -/
def rechargedGrant (x : Grant) (allowance : Nat) : Grant :=
  { x with
    state := rechargedState x.state, allowance := BitVec.ofNat 20 allowance, counter := loadedCounter allowance }

/-- GRANT RECHARGE (R11). -/
def grantRecharge (env : Envelope) (slot : Byte) (allowance : BitVec 32) (s : State) : State :=
  if maxAllowance < allowance.toNat then answerCommand env cmdGrantRecharge .badArgument [] s
  else
    onGrant env cmdGrantRecharge slot (fun g s =>
      answerCommand env cmdGrantRecharge .done []
        (recordStart g true (setGrant g (rechargedGrant (grantAt g s) allowance.toNat) s))) s

/-- GRANT REVOKE (R13). R13 asks only that the consequences of R17 are handed on before DONE: the model carries them out
whole, with the answers they give, before its own DONE is offered at the SVP (DESIGN CHOICE, log 16). -/
def grantRevoke (env : Envelope) (slot : Byte) (picks : List Nat) (s : State) : State :=
  onGrant env cmdGrantRevoke slot (fun g s =>
    answerCommand env cmdGrantRevoke .done [] (endGrant g .revoked picks s)) s

/-- The rights byte of a record (11.6). -/
def rightsByte (r : Vector Right 4) : Byte :=
  byte (rightCode (r.get 0) + 4 * rightCode (r.get 1) + 16 * rightCode (r.get 2) + 64 * rightCode (r.get 3))

/-- The remaining budget as GRANT QUERY reports it: FFFFFFFFh for an unmetered grant (R19, log 22). -/
def remainingWord (x : Grant) : Nat :=
  match remaining x with
  | some n => n
  | none => 0xFFFFFFFF

/-- The GRANT QUERY reply for one slot (11.6). A yes is reported as 01h whatever nonzero byte the install carried
(DEDUCED, log 34). -/
def grantImage (g : Slot) (x : Grant) : List Byte :=
  [grantStateCode x.state, byte (portCode x.requester), byte x.unitValue.toNat, byte x.unitMask.toNat] ++
    leBytes 2 x.classes.toNat ++ leBytes 2 x.itemValue.toNat ++ leBytes 2 x.itemMask.toNat ++
    leBytes 2 x.routineValue.toNat ++ leBytes 2 x.routineMask.toNat ++ [rightsByte x.rights] ++
    leBytes 4 x.allowance.toNat ++ leBytes 2 x.expiry.toNat ++ [flagByte x.escalate, flagByte x.lapse] ++
    leBytes 4 x.counter.toNat ++ leBytes 4 (remainingWord x) ++ [byte g.val]

/-- GRANT QUERY (R19). -/
def grantQuery (env : Envelope) (slot : Byte) (s : State) : State :=
  match slotOf slot with
  | some g => answerCommand env cmdGrantQuery .done (grantImage g (grantAt g s)) s
  | none =>
    if slot = 0xFF#8 then
      answerCommand env cmdGrantQuery .done (allSlots.map fun g => grantStateCode (grantAt g s).state) s
    else answerCommand env cmdGrantQuery .badArgument [] s

/-! ### The rows -/

/-- GRANT_EXPIRY. -/
def execGrantExpiry (g : Slot) (picks : List Nat) (s : State) : Host.Outcome State Fault Refusal :=
  running (grantExpires g picks) s

/-- GRANT_INSTALL. -/
def execGrantInstall (env : Envelope) (a : GrantArgs) (s : State) : Host.Outcome State Fault Refusal :=
  running (grantInstall env a) s

/-- GRANT_SUSPEND. -/
def execGrantSuspend (env : Envelope) (slot : Byte) (s : State) : Host.Outcome State Fault Refusal :=
  running (grantSuspend env slot) s

/-- GRANT_RESUME. -/
def execGrantResume (env : Envelope) (slot : Byte) (s : State) : Host.Outcome State Fault Refusal :=
  running (grantResume env slot) s

/-- GRANT_RECHARGE. -/
def execGrantRecharge (env : Envelope) (slot : Byte) (allowance : BitVec 32) (s : State) :
    Host.Outcome State Fault Refusal :=
  running (grantRecharge env slot allowance) s

/-- GRANT_REVOKE. -/
def execGrantRevoke (env : Envelope) (slot : Byte) (picks : List Nat) (s : State) :
    Host.Outcome State Fault Refusal :=
  running (grantRevoke env slot picks) s

/-- GRANT_QUERY. -/
def execGrantQuery (env : Envelope) (slot : Byte) (s : State) : Host.Outcome State Fault Refusal :=
  running (grantQuery env slot) s

end Sys2Proof.Machine
end

