-- ==== Sys2Proof/Machine/Monitor.lean ====
section
/-! DEFINITION. The traffic monitor's sample (R137, R138) and its commands (R134, R135, R140, R142, R144, R145). -/

namespace Sys2Proof.Machine

/-! ### The sample -/

/-- A bus, where there is one, passes a setup's bus filter (R136). -/
def busPassesOpt (f : BusFilter) (b : Option BusId) : Bool :=
  match b with
  | some b => busPasses f b
  | none => f == .both

/-- The unit's number and bus pass a setup's filters (R137). -/
def unitInFilter (c : Setup) (u : UnitId) (s : State) : Bool := unitPasses c u && busPassesOpt c.bus (unitBus u s)

/-- The channel's port is in a setup's port filter. -/
def chanInFilter (c : Setup) (ch : ChanId) : Bool := c.ports.get (chanPort ch)

/-- A waiting entry counts for WAITING: a channel request whose channel's port passes (R137). -/
def waitingCounts (c : Setup) (e : Entry) : Bool :=
  isChannelRequest e &&
    (match sourceChan e.source with
      | some ch => chanInFilter c ch
      | none => false)

/-- CHANNELS_BUSY: channels in BUSY or STREAMING. -/
def channelsBusyLevel (c : Setup) (s : State) : Nat :=
  countWhere (fun ch => chanInFilter c ch && ((chanAt ch s).state == .busy || (chanAt ch s).state == .streaming)) allChans

/-- The entries of one unit that WAITING counts. -/
def unitWaiting (c : Setup) (u : UnitId) (s : State) : Nat :=
  if (unitAt u s).defn.isSome && unitInFilter c u s then countWhere (waitingCounts c) (unitAt u s).wait else 0

/-- WAITING: channel requests in the wait lists of DEFINED units. -/
def waitingLevel (c : Setup) (s : State) : Nat := (allUnits.map fun u => unitWaiting c u s).sum

/-- The depth of a bus's queue, if it is in the filter. -/
def filteredDepth (c : Setup) (b : BusId) (s : State) : Nat :=
  if busPasses c.bus b then (busAt b s).queue.length else 0

/-- BUS_QUEUE: the depth summed over the buses in the filter. -/
def busQueueLevel (c : Setup) (s : State) : Nat := filteredDepth c .ub0 s + filteredDepth c .ub1 s

/-- MAP_QUEUE: the jobs held. -/
def mapQueueLevel (c : Setup) (s : State) : Nat :=
  countWhere (fun j => chanInFilter c j.chan && unitInFilter c j.unit s) (jobsOf s.map)

/-- The level of a level event under a setup's filters (R137). -/
def levelOf (c : Setup) (s : State) : Option Nat :=
  match c.event with
  | .channelsBusy => some (channelsBusyLevel c s)
  | .waiting => some (waitingLevel c s)
  | .busQueue => some (busQueueLevel c s)
  | .mapQueue => some (mapQueueLevel c s)
  | _ => none

/-- R138's test. -/
def sampleTest (c : Setup) (level : Nat) : Bool :=
  if c.invert then level < c.threshold else c.threshold ≤ level

/-- R138: the amount a sample adds to a counter. -/
def sampleAmount (c : Setup) (memory : Bool) (level : Nat) : Nat :=
  if c.threshold = 0 then level
  else if sampleTest c level && (!c.edge || !memory) then 1
  else 0

/-- R138: the edge memory after a sample. -/
def sampleMemory (c : Setup) (level : Nat) : Bool := if c.threshold = 0 then false else sampleTest c level

/-- The level a counter samples: its setup is enabled and its event a level event (R137). -/
def sampledLevel (i : Fin 8) (s : State) : Option Nat :=
  let c := s.monitor.setups.get i
  if c.enable then levelOf c s else none

/-- The amount the present sample adds to counter `i`. -/
def amountOf (i : Fin 8) (s : State) : Nat :=
  match sampledLevel i s with
  | some level => sampleAmount (s.monitor.setups.get i) (s.monitor.edges.get i) level
  | none => 0

/-- The edge memory of counter `i` after the present sample. -/
def memoryOf (i : Fin 8) (s : State) : Bool :=
  match sampledLevel i s with
  | some level => sampleMemory (s.monitor.setups.get i) level
  | none => s.monitor.edges.get i

/-- A sample period in milliseconds. -/
def periodMs (m : Monitor) : Nat := 10 * m.period.toNat

/-- R137, R138: the sample timer expires: it restarts, and one sample is taken. -/
def sampleExpires (s : State) : State :=
  let s1 := { s with monitor := { s.monitor with
    sampleTimer := periodMs s.monitor
    edges := Vector.ofFn fun i => memoryOf i s } }
  if countingStopped s.monitor then s1 else addCounts (fun i => amountOf i s) s1

/-! ### Images (11.6) -/

/-- The port filter's byte. -/
def portsByte (p : PerPort Bool) : Byte := byte (p.spt.toNat + 2 * p.rpt.toNat + 4 * p.svp.toNat)

/-- The overflow flags' byte. -/
def flagsByte (m : Monitor) : Byte := packBits 8 fun i => m.flags.get i

/-- The policies' byte, as in the global form of MONITOR SETUP. -/
def policiesByte (m : Monitor) : Byte := byte (m.countWhileFrozen.toNat + 2 * m.freezeOnGrant.toNat)

/-- The monitor status image. -/
def statusImage (m : Monitor) : List Byte :=
  flagsByte m :: (leBytes 4 m.escalated.toNat ++
    [byte (m.trailHigh.toNat + 2 * m.trailWrapped.toNat + 4 * m.busFault.toNat)])

/-- The cause, the counter set and the grant of a freeze (11.6, 11.7). -/
def causeBytes : FreezeCause → List Byte
  | .counter set => [1, set, 0xFF]
  | .grant g => [2, 0, byte g.val]
  | .command => [3, 0, 0xFF]

/-- The freeze image. -/
def freezeImage (f : Option FreezeCause) : List Byte :=
  match f with
  | none => [0, 0, 0, 0xFF]
  | some c => 1 :: causeBytes c

/-- A setup's ten bytes. -/
def setupImage (c : Setup) : List Byte :=
  [flagByte c.enable, eventCode c.event, portsByte c.ports, busFilterCode c.bus, byte c.unitValue.toNat,
   byte c.unitMask.toNat, byte c.threshold, flagByte c.invert, flagByte c.edge, flagByte c.escalate]

/-- MONITOR READ's payload for one counter. -/
def counterImage (i : Fin 8) (m : Monitor) : List Byte :=
  leBytes 4 (m.counters.get i).toNat ++ setupImage (m.setups.get i) ++
    [flagByte (m.edges.get i), flagByte (m.flags.get i)]

/-- MONITOR READ's payload for the whole monitor. -/
def monitorImage (m : Monitor) : List Byte :=
  (List.finRange 8).flatMap (fun i => leBytes 4 (m.counters.get i).toNat) ++ statusImage m ++ freezeImage m.freeze ++
    [policiesByte m, m.period]

/-! ### Commands -/

/-- A counter number 0 to 7. -/
def counterOf (b : Byte) : Option (Fin 8) := if h : b.toNat < 8 then some ⟨b.toNat, h⟩ else none

/-- The setup of MONITOR SETUP's counter form, where its arguments are good (R134). -/
def setupOf (a : SetupArgs) : Option Setup :=
  match eventOf a.event, busFilterOf a.bus with
  | some e, some b =>
    if 1 ≤ a.ports.toNat ∧ a.ports.toNat ≤ 7 ∧ a.unitValue.toNat ≤ 15 ∧ a.unitMask.toNat ≤ 15 then
      some {
        enable := yes a.enable
        event := e
        ports := ⟨a.ports.getLsbD 0, a.ports.getLsbD 1, a.ports.getLsbD 2⟩
        bus := b
        unitValue := BitVec.ofNat 4 a.unitValue.toNat
        unitMask := BitVec.ofNat 4 a.unitMask.toNat
        threshold := a.threshold.toNat
        invert := yes a.invert
        edge := yes a.edge
        escalate := yes a.escalate }
    else none
  | _, _ => none

/-- R134: a counter's setup is replaced and its edge memory becomes false. -/
def storeSetup (i : Fin 8) (c : Setup) (s : State) : State :=
  { s with monitor := { s.monitor with
    setups := s.monitor.setups.set i.val c
    edges := s.monitor.edges.set i.val false } }

/-- MONITOR SETUP, counter form (R134). Eleven argument bytes that begin with FFh are the global form at a wrong length:
MALFORMED (R162). -/
def monitorSetup (env : Envelope) (a : SetupArgs) (s : State) : State :=
  if a.counter = 0xFF#8 then answerCommand env cmdMonitorSetup .malformed [] s
  else
    match counterOf a.counter, setupOf a with
    | some i, some c => answerCommand env cmdMonitorSetup .done [] (storeSetup i c s)
    | _, _ => answerCommand env cmdMonitorSetup .badArgument [] s

/-- R135: the sample period and both policies are stored, and the sample timer restarts. -/
def storeGlobal (steps policies : Byte) (s : State) : State :=
  { s with monitor := { s.monitor with
    period := steps
    countWhileFrozen := policies.getLsbD 0
    freezeOnGrant := policies.getLsbD 1
    sampleTimer := 10 * steps.toNat } }

/-- MONITOR SETUP, global form (R135). -/
def monitorSetupGlobal (env : Envelope) (steps policies : Byte) (s : State) : State :=
  if steps = 0 then answerCommand env cmdMonitorSetup .badArgument [] s
  else answerCommand env cmdMonitorSetup .done [] (storeGlobal steps policies s)

/-- MONITOR READ (R145). -/
def monitorRead (env : Envelope) (selector : Byte) (s : State) : State :=
  match counterOf selector with
  | some i => answerCommand env cmdMonitorRead .done (counterImage i s.monitor) s
  | none =>
    if selector = 0xFF#8 then answerCommand env cmdMonitorRead .done (monitorImage s.monitor) s
    else answerCommand env cmdMonitorRead .badArgument [] s

/-- A value is written into a counter (R140). -/
def preload (i : Fin 8) (value : BitVec 32) (s : State) : State :=
  { s with monitor := { s.monitor with counters := s.monitor.counters.set i.val value } }

/-- MONITOR PRELOAD (R140). -/
def monitorPreload (env : Envelope) (counter : Byte) (value : BitVec 32) (s : State) : State :=
  match counterOf counter with
  | some i => answerCommand env cmdMonitorPreload .done [] (preload i value s)
  | none => answerCommand env cmdMonitorPreload .badArgument [] s

/-- R142: the named items that are set are cleared. -/
def acknowledged (counters : Byte) (grants : BitVec 32) (flags : Byte) (m : Monitor) : Monitor :=
  { m with
    flags := Vector.ofFn fun i => m.flags.get i && !counters.getLsbD i.val
    escalated := m.escalated &&& ~~~grants
    trailHigh := m.trailHigh && !flags.getLsbD 0
    trailWrapped := m.trailWrapped && !flags.getLsbD 1
    busFault := m.busFault && !flags.getLsbD 2 }

/-- MONITOR ACKNOWLEDGE (R142). -/
def monitorAcknowledge (env : Envelope) (counters : Byte) (grants : BitVec 32) (flags : Byte) (s : State) : State :=
  let m := acknowledged counters grants flags s.monitor
  answerCommand env cmdMonitorAcknowledge .done (statusImage m) { s with monitor := m }

/-- FREEZE (R144, R143). -/
def freezeCommand (env : Envelope) (s : State) : State :=
  answerCommand env cmdFreeze .done [] (freezeTrigger .command s)

/-- UNFREEZE (R144). -/
def unfreezeCommand (env : Envelope) (s : State) : State :=
  match s.monitor.freeze with
  | none => answerCommand env cmdUnfreeze .wrongState [] s
  | some _ =>
    answerCommand env cmdUnfreeze .done []
      (writeRecord none none none none .unfreeze { s with monitor := { s.monitor with freeze := none } })

/-! ### The rows -/

/-- SAMPLE_TIMER_EXPIRY. -/
def execSampleTimerExpiry (s : State) : Host.Outcome State Fault Refusal := running sampleExpires s

/-- MONITOR_SETUP. -/
def execMonitorSetup (env : Envelope) (a : SetupArgs) (s : State) : Host.Outcome State Fault Refusal :=
  running (monitorSetup env a) s

/-- MONITOR_SETUP_GLOBAL. -/
def execMonitorSetupGlobal (env : Envelope) (steps policies : Byte) (s : State) : Host.Outcome State Fault Refusal :=
  running (monitorSetupGlobal env steps policies) s

/-- MONITOR_READ. -/
def execMonitorRead (env : Envelope) (selector : Byte) (s : State) : Host.Outcome State Fault Refusal :=
  running (monitorRead env selector) s

/-- MONITOR_PRELOAD. -/
def execMonitorPreload (env : Envelope) (counter : Byte) (value : BitVec 32) (s : State) :
    Host.Outcome State Fault Refusal :=
  running (monitorPreload env counter value) s

/-- MONITOR_ACKNOWLEDGE. -/
def execMonitorAcknowledge (env : Envelope) (counters : Byte) (grants : BitVec 32) (flags : Byte) (s : State) :
    Host.Outcome State Fault Refusal :=
  running (monitorAcknowledge env counters grants flags) s

/-- FREEZE. -/
def execFreeze (env : Envelope) (s : State) : Host.Outcome State Fault Refusal := running (freezeCommand env) s

/-- UNFREEZE. -/
def execUnfreeze (env : Envelope) (s : State) : Host.Outcome State Fault Refusal := running (unfreezeCommand env) s

end Sys2Proof.Machine
end

