-- ==== Sys2Proof/Machine/Trail.lean ====
section
/-! DEFINITION. Reading the access trail (R152) and the image of a record (11.7). -/

namespace Sys2Proof.Machine

/-- The requester and channel byte (11.7). -/
def requesterByte (requester : Option Port) (chan : Option ChanId) : Byte :=
  match requester, chan with
  | none, _ => 0
  | some p, none => byte (16 * portCode p)
  | some p, some c => byte (128 + 16 * portCode p + (chanIdx c).val)

/-- The kind code of a record (11.7). -/
def detailCode : Detail → Byte
  | .grantStart _ _ _ => 0x01
  | .grantEnd _ _ _ _ => 0x02
  | .claimStart _ _ => 0x03
  | .claimEnd _ _ => 0x04
  | .faultClear => 0x05
  | .routine _ => 0x06
  | .write _ _ _ => 0x07
  | .mapWrite _ _ _ _ _ => 0x08
  | .stream _ _ _ _ => 0x09
  | .refusal _ _ => 0x0A
  | .freeze _ => 0x0B
  | .unfreeze => 0x0C
  | .reset => 0x0D

/-- The detail bytes a kind uses (11.7). -/
def detailBytes : Detail → List Byte
  | .grantStart recharged allowance st =>
    [if recharged then 2 else 1, grantStateCode st] ++ leBytes 4 allowance.toNat
  | .grantEnd reason st allowance counter =>
    [endReasonCode reason, grantStateCode st] ++ leBytes 4 allowance.toNat ++ leBytes 4 counter.toNat
  | .claimStart mode changed => [modeCode mode, if changed then 2 else 1]
  | .claimEnd reason answered => [claimReasonCode reason, flagByte answered]
  | .faultClear => []
  | .routine id => leBytes 2 id.toNat
  | .write window offset length => [byte window.val, 0] ++ leBytes 4 offset ++ leBytes 2 length
  | .mapWrite map r0 c0 w1 h1 => [byte map.val, byte r0, byte c0, byte w1, byte h1]
  | .stream window start total none =>
    [byte window.val, 0xFF] ++ leBytes 4 start ++ leBytes 4 total ++ leBytes 4 0
  | .stream window start total (some (confirmed, st)) =>
    [byte window.val, statusCode st] ++ leBytes 4 start ++ leBytes 4 total ++ leBytes 4 confirmed
  | .refusal st kind => [statusCode st, kind]
  | .freeze cause => causeBytes cause
  | .unfreeze => []
  | .reset => []

/-- An optional index as a byte, FFh when absent. -/
def optByte (v : Option Nat) : Byte :=
  match v with
  | some n => byte n
  | none => 0xFF

/-- The 28-byte image of a record (11.7). -/
def recordImage (r : Record) : List Byte :=
  leBytes 4 r.seq.toNat ++ leBytes 4 r.time.toNat ++
    [detailCode r.detail, requesterByte r.requester r.chan, optByte (r.grant.map (·.val)), optByte (r.unit.map (·.val))] ++
    (detailBytes r.detail ++ List.replicate (16 - (detailBytes r.detail).length) 0)

/-- TRAIL READ's payload for `n` records (R152, 11.7). -/
def trailPayload (n : Nat) (t : Trail) : List Byte :=
  [byte (t.records.take n).length, byte (t.records.drop n).length] ++ (t.records.take n).flatMap recordImage

/-- The oldest `n` records leave the trail (R152). -/
def dropRecords (n : Nat) (s : State) : State :=
  { s with trail := { s.trail with records := s.trail.records.drop n } }

/-- TRAIL READ (R152). -/
def trailRead (env : Envelope) (count : Byte) (s : State) : State :=
  if count = 0 ∨ 8 < count.toNat then answerCommand env cmdTrailRead .badArgument [] s
  else answerCommand env cmdTrailRead .done (trailPayload count.toNat s.trail) (dropRecords count.toNat s)

/-- TRAIL_READ. -/
def execTrailRead (env : Envelope) (count : Byte) (s : State) : Host.Outcome State Fault Refusal :=
  running (trailRead env count) s

end Sys2Proof.Machine
end

