-- ==== Sys2Proof/Machine/Supervisor.lean ====
section
/-! DEFINITION. The supervisor commands on units, claims, channels, the Service Port and the whole part: UNIT DEFINE
and UNIT CLEAR (R48, R49), CLAIM END (R65), CHANNEL HALT and CHANNEL CLEAR (R84, R85), PORT SETUP (R158), STATUS READ
(R163), GATEWAY RESET (R164). -/

namespace Sys2Proof.Machine

/-! ### UNIT DEFINE, UNIT CLEAR, CLAIM END -/

/-- A window of UNIT DEFINE, where it is well formed (R48). -/
def windowOf (a : WindowArgs) : Option Window :=
  if 1 ≤ a.length.toNat ∧ a.length.toNat ≤ 256 ∧ a.granularity.toNat ≤ 1 then
    some {
      base := a.base
      granularity := if a.granularity = 0 then .g256 else .g4096
      length := a.length.toNat
      live := a.attributes.getLsbD 0
      flashTarget := a.attributes.getLsbD 1 }
  else none

/-- The conditions of R47 on a map in a window of `size` bytes. -/
def mapFits (a : MapArgs) (size : Nat) : Bool :=
  let s := a.cell.toNat
  let c := a.columns.toNat
  let r := a.rows.toNat
  let p := a.pitch.toNat
  let m := a.offset.toNat
  (s == 1 || s == 2 || s == 4) && 1 ≤ c && c ≤ 64 && 1 ≤ r && r ≤ 64 && c * s ≤ p && p ≤ 4096 && m % s == 0 &&
    p % s == 0 && m + (r - 1) * p + c * s ≤ size

/-- A map of UNIT DEFINE, where it is well formed in the windows of the same command (R47, R48). A window index above 3
names no window (log 26). -/
def mapOf (a : MapArgs) (windows : Vector (Option Window) 4) : Option MapDef :=
  match index4 a.window with
  | none => none
  | some i =>
    match windows.get i with
    | none => none
    | some w =>
      if mapFits a (windowSize w) then
        some {
          window := i
          offset := a.offset.toNat
          cell := a.cell.toNat
          columns := a.columns.toNat
          rows := a.rows.toNat
          pitch := a.pitch.toNat }
      else none

/-- The windows of UNIT DEFINE: absent where the present bit is clear. -/
def windowsOf (a : UnitArgs) : Vector (Option Window) 4 :=
  Vector.ofFn fun i => if a.windowsPresent.getLsbD i.val then windowOf (a.windows.get i) else none

/-- The maps of UNIT DEFINE: absent where the present bit is clear. -/
def mapsOf (a : UnitArgs) : Vector (Option MapDef) 4 :=
  Vector.ofFn fun j => if a.mapsPresent.getLsbD j.val then mapOf (a.maps.get j) (windowsOf a) else none

/-- The definition the arguments spell. -/
def defOf (a : UnitArgs) (b : BusId) : UnitDef where
  bus := b
  reqId := BitVec.ofNat 11 a.reqId.toNat
  repId := BitVec.ofNat 11 a.repId.toNat
  timeout := a.timeout.toNat
  windows := windowsOf a
  maps := mapsOf a

/-- Every present window and map is well formed (R48). -/
def partsOk (a : UnitArgs) : Bool :=
  ((List.finRange 4).all fun i => !a.windowsPresent.getLsbD i.val || ((windowsOf a).get i).isSome) &&
    ((List.finRange 4).all fun j => !a.mapsPresent.getLsbD j.val || ((mapsOf a).get j).isSome)

/-- An identifier is one of a definition's (R48). -/
def usesId (d : UnitDef) (id : BitVec 16) : Bool := d.reqId.toNat == id.toNat || d.repId.toNat == id.toNat

/-- Unit `v` is another DEFINED unit on the bus. -/
def otherOnBus (u v : UnitId) (b : BusId) (s : State) : Bool := v != u && onBus b (unitAt v s)

/-- An identifier of the command is in use by another DEFINED unit on the bus (R48). -/
def idClash (u : UnitId) (b : BusId) (a : UnitArgs) (s : State) : Bool :=
  allUnits.any fun v =>
    otherOnBus u v b s &&
      (match (unitAt v s).defn with
        | some d => usesId d a.reqId || usesId d a.repId
        | none => false)

/-- The command would make a ninth DEFINED unit on its bus (R48). -/
def ninthUnit (u : UnitId) (b : BusId) (s : State) : Bool :=
  Config.unitsPerBus ≤ countWhere (fun v => otherOnBus u v b s) allUnits

/-- The short reply timeout is 20 to 2,000 ms in 10 ms steps (R45, R48). -/
def timeoutOk (t : BitVec 16) : Bool := 20 ≤ t.toNat && t.toNat ≤ 2000 && t.toNat % 10 == 0

/-- The two identifiers are CAN identifiers and differ (R48, R158). -/
def idsOk (reqId repId : BitVec 16) : Bool := reqId.toNat ≤ 0x7FF && repId.toNat ≤ 0x7FF && reqId != repId

/-- The arguments of UNIT DEFINE are good for unit `u` on bus `b` (R48). -/
def defineArgsOk (u : UnitId) (b : BusId) (a : UnitArgs) (s : State) : Bool :=
  idsOk a.reqId a.repId && !idClash u b a s && timeoutOk a.timeout && partsOk a && !ninthUnit u b s

/-- The unit has work in one of the senses of R48. -/
def unitHasWork (u : UnitId) (s : State) : Bool :=
  (unitAt u s).claim.state != .free || (unitAt u s).out.isSome || !(unitAt u s).wait.isEmpty ||
    (jobsOf s.map).any (fun j => j.unit == u) || allCtxs.any fun k => streamHas k (fun x => x.unit == u) s

/-- The definition fields are replaced as a whole; a reply reassembly is discarded (R48, R49, R123). -/
def setDefinition (u : UnitId) (d : Option UnitDef) (s : State) : State :=
  setUnit u { unitAt u s with defn := d, reasm := none } s

/-- UNIT DEFINE (R48). -/
def unitDefine (env : Envelope) (a : UnitArgs) (s : State) : State :=
  match unitOf a.unit, busOf a.bus with
  | some u, some b =>
    if !defineArgsOk u b a s then answerCommand env cmdUnitDefine .badArgument [] s
    else if unitHasWork u s then answerCommand env cmdUnitDefine .inUse [] s
    else answerCommand env cmdUnitDefine .done [] (setDefinition u (some (defOf a b)) s)
  | _, _ => answerCommand env cmdUnitDefine .badArgument [] s

/-- UNIT CLEAR (R49). -/
def unitClear (env : Envelope) (unit : Byte) (s : State) : State :=
  match unitOf unit with
  | none => answerCommand env cmdUnitClear .badArgument [] s
  | some u =>
    if unitHasWork u s then answerCommand env cmdUnitClear .inUse [] s
    else answerCommand env cmdUnitClear .done [] (setDefinition u none s)

/-- CLAIM END (R65): answered when the claim has gone LEAVING. R65 does not order its DONE against the answers that the
leaving gives: those are offered first (DESIGN CHOICE, log 16). -/
def claimEnd (env : Envelope) (unit : Byte) (s : State) : State :=
  match unitOf unit with
  | none => answerCommand env cmdClaimEnd .badArgument [] s
  | some u =>
    if (unitAt u s).claim.state = .free then answerCommand env cmdClaimEnd .wrongState [] s
    else answerCommand env cmdClaimEnd .done [] (leaveClaim u .forced s)

/-! ### CHANNEL HALT, CHANNEL CLEAR -/

/-- The channel a port and an index byte name (R84). -/
def channelOf (port index : Byte) : Option ChanId :=
  match portOf port, index4 index with
  | some p, some i => some (chanOf p i)
  | _, _ => none

/-- CHANNEL HALT (R84). -/
def channelHalt (env : Envelope) (port index : Byte) (s : State) : State :=
  match channelOf port index with
  | none => answerCommand env cmdChannelHalt .badArgument [] s
  | some c =>
    match (chanAt c s).state with
    | .closed => answerCommand env cmdChannelHalt .wrongState [] s
    | .halted => answerCommand env cmdChannelHalt .done [] (setChan c { chanAt c s with clearPending := false } s)
    | _ => answerCommand env cmdChannelHalt .done [] (haltEntry c .command s)

/-- CHANNEL CLEAR (R85). R85 does not order its DONE against the answers of the stream and the map job it ends: those are
offered first (DESIGN CHOICE, log 16). -/
def channelClear (env : Envelope) (port index : Byte) (s : State) : State :=
  match channelOf port index with
  | none => answerCommand env cmdChannelClear .badArgument [] s
  | some c =>
    if (chanAt c s).state = .halted then
      answerCommand env cmdChannelClear .done [] (if (chanAt c s).clearPending then s else clearChannel c s)
    else answerCommand env cmdChannelClear .wrongState [] s

/-! ### PORT SETUP -/

/-- R158: both identifiers are stored. -/
def storeIds (reqId repId : BitVec 16) (s : State) : State :=
  { s with spt := { s.spt with
    reqId := BitVec.ofNat 11 reqId.toNat, repId := BitVec.ofNat 11 repId.toNat } }

/-- PORT SETUP (R158). -/
def portSetup (env : Envelope) (reqId repId : BitVec 16) (s : State) : State :=
  if !idsOk reqId repId then answerCommand env cmdPortSetup .badArgument [] s
  else if s.spt.link then answerCommand env cmdPortSetup .inUse [] s
  else answerCommand env cmdPortSetup .done [] (storeIds reqId repId s)

/-! ### STATUS READ -/

/-- A channel's state and E (11.4). -/
def channelNibble (ch : Channel) : Nat := chanStateCode ch.state + 8 * bufBit ch.expect

/-- A channel's byte in STATUS READ (11.6). -/
def channelByte (ch : Channel) : Byte :=
  byte (channelNibble ch + 16 * haltCauseCode ch.haltCause + 64 * ch.clearPending.toNat)

/-- A bus's three bytes in STATUS READ. -/
def busImage (b : Bus) : List Byte := [busStateCode b.state, byte b.queue.length, byte b.errors]

/-- A channel coded as in a trail record. -/
def chanCode (c : ChanId) : Byte := requesterByte (some (chanPort c)) (some c)

/-- A context's eleven bytes in STATUS READ. -/
def contextImage (x : Option Stream) : List Byte :=
  match x with
  | none => List.replicate 11 0
  | some x =>
    [streamStateCode x.state, chanCode x.chan, byte x.unit.val] ++ leBytes 4 x.accepted ++ leBytes 4 x.confirmed

/-- A job's three bytes in STATUS READ. -/
def jobImage (j : Job) : List Byte :=
  [chanCode j.chan, byte j.unit.val,
   byte (j.map.val + (match j.kind with
     | .read => 0
     | .write => 128))]

/-- The row slot's byte in STATUS READ. -/
def rowSlotByte (r : Option RowSlot) : Byte :=
  match r with
  | none => 0
  | some r => byte (1 + 2 * r.orphan.toNat)

/-- The map engine's bytes in STATUS READ: five job places. -/
def jobsImage (m : MapEngine) : List Byte :=
  (jobsOf m).flatMap jobImage ++ List.replicate (15 - 3 * (jobsOf m).length) 0

/-- The lines' byte in STATUS READ. -/
def linesByte (s : State) : Byte :=
  byte (s.filtered.ign.toNat + 2 * s.filtered.run.toNat + 4 * s.filtered.move.toNat + 8 * s.alert.toNat)

/-- STATUS READ's 97 bytes (R163, 11.6). -/
def statusReadImage (s : State) : List Byte :=
  [linesByte s, flagByte s.spt.link] ++ leBytes 2 s.spt.reqId.toNat ++ leBytes 2 s.spt.repId.toNat ++
    [byte s.replies.spt.length, byte s.replies.rpt.length, byte s.replies.svp.length] ++
    allChans.map (fun c => channelByte (chanAt c s)) ++ busImage s.buses.ub0 ++ busImage s.buses.ub1 ++
    allCtxs.flatMap (fun k => contextImage (streamAt k s)) ++
    [byte (jobsOf s.map).length, rowSlotByte s.map.slot] ++ jobsImage s.map ++
    [byte s.trail.records.length] ++ leBytes 4 s.trail.next.toNat ++ freezeImage s.monitor.freeze

/-- STATUS READ (R163). -/
def statusRead (env : Envelope) (s : State) : State := answerCommand env cmdStatusRead .done (statusReadImage s) s

/-! ### GATEWAY RESET -/

/-- A unit record at GATEWAY RESET: definition and tag kept (R45, R67, R116). -/
def resetUnit (un : UnitRec) : UnitRec := { UnitRec.initial with defn := un.defn, tag := un.tag }

/-- A bus controller at GATEWAY RESET (R116). -/
def resetBus (b : Bus) : Bus :=
  { b with queue := [], tx := none, recovery := if b.state = .off then b.recovery else none }

/-- The monitor at GATEWAY RESET (R147). -/
def resetMonitor (m : Monitor) : Monitor :=
  { Monitor.initial with
    setups := m.setups, countWhileFrozen := m.countWhileFrozen, freezeOnGrant := m.freezeOnGrant, period := m.period,
    sampleTimer := periodMs m }

/-- R164: every block takes its reset values. -/
def resetBlocks (s : State) : State :=
  { s with
    grants := Vector.replicate 32 Grant.vacant
    units := Vector.ofFn fun u => resetUnit (s.units.get u)
    chans := Vector.replicate 12 Channel.initial
    streams := Vector.replicate 4 none
    map := ⟨none, [], none⟩
    buses := ⟨resetBus s.buses.ub0, resetBus s.buses.ub1⟩
    monitor := resetMonitor s.monitor
    spt := { s.spt with reasm := Vector.replicate 4 none, sending := none }
    replies := ⟨[], [], []⟩ }

/-- GATEWAY RESET (R164): the blocks' reset, the RESET record (R153), the answer. -/
def gatewayReset (env : Envelope) (s : State) : State :=
  answerCommand env cmdGatewayReset .done [] (writeRecord none none none none .reset (resetBlocks s))

/-! ### Routing -/

/-- R162: a command is taken by the block it acts on. -/
def runCommand (env : Envelope) (q : Command) (picks : List Nat) (s : State) : State :=
  match q with
  | .grantInstall a => grantInstall env a s
  | .grantSuspend slot => grantSuspend env slot s
  | .grantResume slot => grantResume env slot s
  | .grantRecharge slot allowance => grantRecharge env slot allowance s
  | .grantRevoke slot => grantRevoke env slot picks s
  | .grantQuery slot => grantQuery env slot s
  | .unitDefine a => unitDefine env a s
  | .unitClear unit => unitClear env unit s
  | .claimEnd unit => claimEnd env unit s
  | .channelHalt port index => channelHalt env port index s
  | .channelClear port index => channelClear env port index s
  | .monitorSetup a => monitorSetup env a s
  | .monitorSetupGlobal steps policies => monitorSetupGlobal env steps policies s
  | .monitorBadSelector => answerCommand env cmdMonitorSetup .badArgument [] s
  | .monitorRead selector => monitorRead env selector s
  | .monitorPreload counter value => monitorPreload env counter value s
  | .monitorAcknowledge counters grants flags => monitorAcknowledge env counters grants flags s
  | .freeze => freezeCommand env s
  | .unfreeze => unfreezeCommand env s
  | .trailRead count => trailRead env count s
  | .portSetup reqId repId => portSetup env reqId repId s
  | .statusRead => statusRead env s
  | .gatewayReset => gatewayReset env s

/-- R162: the body of a control message; an unknown code or a wrong length is answered MALFORMED. -/
def deliverCommand (env : Envelope) (body : List Byte) (picks : List Nat) (s : State) : State :=
  match parseCommand (body.headD 0) body.tail with
  | some q => runCommand env q picks s
  | none => answerCommand env (body.headD 0) .malformed [] s

/-! ### The rows -/

/-- UNIT_DEFINE. -/
def execUnitDefine (env : Envelope) (a : UnitArgs) (s : State) : Host.Outcome State Fault Refusal :=
  running (unitDefine env a) s

/-- UNIT_CLEAR. -/
def execUnitClear (env : Envelope) (unit : Byte) (s : State) : Host.Outcome State Fault Refusal :=
  running (unitClear env unit) s

/-- CLAIM_END. -/
def execClaimEnd (env : Envelope) (unit : Byte) (s : State) : Host.Outcome State Fault Refusal :=
  running (claimEnd env unit) s

/-- CHANNEL_HALT. -/
def execChannelHalt (env : Envelope) (port index : Byte) (s : State) : Host.Outcome State Fault Refusal :=
  running (channelHalt env port index) s

/-- CHANNEL_CLEAR. -/
def execChannelClear (env : Envelope) (port index : Byte) (s : State) : Host.Outcome State Fault Refusal :=
  running (channelClear env port index) s

/-- PORT_SETUP. -/
def execPortSetup (env : Envelope) (reqId repId : BitVec 16) (s : State) : Host.Outcome State Fault Refusal :=
  running (portSetup env reqId repId) s

/-- STATUS_READ. -/
def execStatusRead (env : Envelope) (s : State) : Host.Outcome State Fault Refusal := running (statusRead env) s

/-- GATEWAY_RESET. -/
def execGatewayReset (env : Envelope) (s : State) : Host.Outcome State Fault Refusal := running (gatewayReset env) s

end Sys2Proof.Machine
end

