-- ==== Sys2Proof/Machine/Ports.lean ====
section
/-! DEFINITION. The requester ports: SPT frames, reassembly and service link (R154 to R157), SPT replies (R161, R165),
SPI transactions (R159, R160). -/

namespace Sys2Proof.Machine

/-! ### SPT reassembly -/

/-- The port's own MALFORMED answer to a message never taken (R155). -/
def answerMalformed (c : ChanId) (b : Buf) (s : State) : State := answerOwn c b noKind .malformed s

/-- A channel's reassembly at SPT. -/
def sptReasm (i : Fin 4) (s : State) : Option SptReasm := s.spt.reasm.get i

/-- A channel's reassembly becomes `r`. -/
def setSptReasm (i : Fin 4) (r : Option SptReasm) (s : State) : State :=
  { s with spt := { s.spt with reasm := s.spt.reasm.set i.val r } }

/-- The message is discarded and the channel answered MALFORMED (R155). -/
def faultSegment (i : Fin 4) (b : Buf) (s : State) : State := answerMalformed (chanOf .spt i) b (setSptReasm i none s)

/-- What a segment's data make of a reassembly (R155). -/
inductive SegmentEffect where
  | fault
  | complete (body : List Byte)
  | more (r : SptReasm)
  deriving DecidableEq, Repr

/-- R155: the data of a segment in its place join the reassembly; bytes of a last segment's frame beyond what remains
are ignored (R154). -/
def addSptData (r : SptReasm) (last : Bool) (data : List Byte) : SegmentEffect :=
  let rest := r.length - r.bytes.length
  if last then
    if rest ≤ data.length then .complete (r.bytes ++ data.take rest) else .fault
  else if rest ≤ data.length ∨ (data.length < Config.segmentData ∧ Config.segmentData < rest) then .fault
  else .more { r with bytes := r.bytes ++ data, next := r.next + 1, gap := Config.gapMs }

/-- The reassembly a FIRST segment starts, before its data (R155). -/
def startedReasm (g : Segment) : SptReasm where
  buf := g.buf
  length := g.length
  bytes := []
  next := 0
  gap := Config.gapMs

/-- R155: what a valid segment makes of its channel's reassembly. -/
def segmentEffect (r : Option SptReasm) (g : Segment) : SegmentEffect :=
  if g.first then (if g.index = 0 then addSptData (startedReasm g) g.last g.data else .fault)
  else
    match r with
    | none => .fault
    | some x => if g.index = x.next ∧ g.buf = x.buf then addSptData x g.last g.data else .fault

/-- R155: a valid segment is taken by the reassembly of its channel. -/
def takeSptSegment (g : Segment) (s : State) : State :=
  match segmentEffect (sptReasm g.chan s) g with
  | .fault => faultSegment g.chan g.buf s
  | .more x => setSptReasm g.chan (some x) s
  | .complete body => deliver (chanOf .spt g.chan) g.buf body (setSptReasm g.chan none s)

/-- A segment on the request identifier is valid (R154). -/
def isValidSegment (g : Segment) : Bool :=
  if g.first then 1 ≤ g.length && g.length ≤ 244 else g.length == 0

/-- R156: the tester's sign of presence: the link goes UP with its consequence (R6), or its timer restarts. -/
def signOfPresence (s : State) : State :=
  let s1 := { s with spt := { s.spt with link := true, linkTimer := some Config.linkMs } }
  if s.spt.link then s1 else activateArmed s1

/-- R154 to R156: a frame on SPT. -/
def sptFrame (id : CanId) (frame : List Byte) (s : State) : State :=
  if id = s.spt.reqId then
    match parseSegment frame with
    | none => s
    | some g => if isValidSegment g then takeSptSegment g (signOfPresence s) else s
  else s

/-- R155: the gap timer expires. -/
def gapExpires (i : Fin 4) (s : State) : State :=
  match sptReasm i s with
  | none => s
  | some r => faultSegment i r.buf s

/-! ### Link DOWN -/

/-- The SPT reply queue is emptied; nothing counts as REPLY_DROPPED (R157). -/
def emptySptReplies (s : State) : State := setReplies .spt [] s

/-- R157 steps 1, 3 and 4: the port's own state; a frame on the wire stays until it is done. -/
def sptLinkDown (s : State) : State :=
  emptySptReplies
    { s with spt := { s.spt with
      link := false, linkTimer := none, reasm := Vector.replicate 4 none, sending := none } }

/-- R157: the service link goes DOWN. The reply queue is emptied first and last (log 19). -/
def linkDown (picks : List Nat) (s : State) : State :=
  emptySptReplies
    (runAll picks ((lapsingSlots s).flatMap (grantConsequences (lapsingSlots s)) ++ [.closeSpt])
      (vacateLapsing (sptLinkDown s)))

/-- R157: the link timer expires. -/
def linkTimerExpires (picks : List Nat) (s : State) : State :=
  match s.spt.linkTimer with
  | none => s
  | some _ => linkDown picks s

/-! ### SPT replies -/

/-- The flags byte of a reply (11.3). -/
def replyFlags (r : Reply) : Byte := flagByte r.clamped

/-- A reply's body (11.3). -/
def replyBody (r : Reply) : List Byte := r.kind :: statusCode r.status :: replyFlags r :: r.payload

/-- The frame of a segment of an SPT reply (R161, R165). -/
def replyFrame (id : CanId) (r : Reply) (seg : Nat) : Frame :=
  segmentFrame id (chanIdx r.chan).val r.buf (replyBody r) seg

/-- R161: SPT takes its queue's head and begins its first segment. While a frame of a reply that link DOWN or GATEWAY
RESET dropped is still on the wire, nothing begins (DEDUCED, log 13). -/
def transmitReply (s : State) : State :=
  match s.replies.spt, s.spt.sending, s.spt.wire with
  | r :: _, none, none =>
    { s with spt := { s.spt with sending := some 0, wire := some (replyFrame s.spt.repId r 0) } }
  | _, _, _ => s

/-- R161: the frame on the wire has been sent: the next segment follows, or the reply leaves the queue. A frame whose
reply was dropped by link DOWN or a reset is only taken off the wire. -/
def replyFrameSent (s : State) : State :=
  match s.spt.sending, s.replies.spt with
  | some k, r :: rest =>
    if k + 1 < segmentCount (replyBody r).length then
      { s with spt := { s.spt with sending := some (k + 1), wire := some (replyFrame s.spt.repId r (k + 1)) } }
    else setReplies .spt rest { s with spt := { s.spt with sending := none, wire := none } }
  | _, _ => { s with spt := { s.spt with sending := none, wire := none } }

/-- R161, R157: the frame on the wire fails: it is sent again, unless its reply was dropped. -/
def replyFrameFailed (s : State) : State :=
  match s.spt.sending with
  | some _ => s
  | none => { s with spt := { s.spt with wire := none } }

/-- R161: the frame on the wire is done. -/
def replyFrameDone (sent : Bool) (s : State) : State :=
  match s.spt.wire with
  | none => s
  | some _ => if sent then replyFrameSent s else replyFrameFailed s

/-! ### SPI transactions -/

/-- The bytes an SPI port drives in a transaction. -/
def setMiso (p : SpiPort) (bytes : List Byte) (s : State) : State :=
  match p with
  | .rpt => { s with miso := { s.miso with rpt := bytes } }
  | .svp => { s with miso := { s.miso with svp := bytes } }

/-- A reply as READ REPLY drives it: length, envelope byte and body (11.3). The envelope byte names the channel
and the buffer bit. The manual does not state its bit 7 for a supervisor command's reply, where the command's own envelope
has the control mark: it is driven 0 (DESIGN CHOICE, log 35). -/
def replyBytes (r : Reply) : List Byte :=
  leBytes 2 (1 + (replyBody r).length) ++ byte ((chanIdx r.chan).val + 4 * bufBit r.buf) :: replyBody r

/-- READ REPLY of `clocked` bytes after the kind byte (R160). -/
def spiReadReply (p : SpiPort) (clocked : Nat) (s : State) : State :=
  match repliesAt (spiPort p) s with
  | [] => setMiso p ((leBytes 2 0).take clocked) s
  | r :: rest =>
    let s1 := setMiso p ((replyBytes r).take clocked) s
    if (replyBytes r).length ≤ clocked then setReplies (spiPort p) rest s1 else s1

/-- The bytes READ STATUS drives (11.4). -/
def readStatusBytes (p : SpiPort) (s : State) : List Byte :=
  byte (repliesAt (spiPort p) s).length ::
    (((List.finRange 4).map fun i => byte (channelNibble (chanAt (chanOf (spiPort p) i) s))) ++
      (match p with
        | .rpt => []
        | .svp => [byte (s.monitor.freeze.isSome.toNat + 2 * s.alert.toNat)]))

/-- READ STATUS of `clocked` bytes after the kind byte (R160). -/
def spiReadStatus (p : SpiPort) (clocked : Nat) (s : State) : State :=
  setMiso p ((readStatusBytes p s).take clocked) s

/-- The message of a WRITE MESSAGE at its end (R159): `envelope` is the byte after the kind, `rest` the bytes after it. A
transaction released before its length byte is read as one of length 0 (DESIGN CHOICE, log 20). -/
def spiMessage (p : SpiPort) (envelope : Byte) (rest : List Byte) (picks : List Nat) (s : State) : State :=
  let idx : Fin 4 := Fin.ofNat 4 envelope.toNat
  let buf := bufOfBit (envelope.getLsbD 2)
  let control := envelope.getLsbD 7
  let length := (rest.headD 0).toNat
  let bytes := rest.tail
  if length = 0 ∨ 244 < length ∨ bytes.length < length ∨ (control ∧ p = .rpt) then
    answerMalformed (chanOf (spiPort p) idx) buf s
  else if control then deliverCommand ⟨idx, buf⟩ (bytes.take length) picks s
  else deliver (chanOf (spiPort p) idx) buf (bytes.take length) s

/-- R159: WRITE MESSAGE after its kind byte. A transaction released before its envelope names no channel (log 20). -/
def spiWrite (p : SpiPort) (rest : List Byte) (picks : List Nat) (s : State) : State :=
  match rest with
  | [] => s
  | envelope :: rest => spiMessage p envelope rest picks s

/-- R159: a transaction by its first byte; one of another kind is ignored to its end (log 21). -/
def spiTransaction (p : SpiPort) (mosi : List Byte) (picks : List Nat) (s : State) : State :=
  match mosi with
  | [] => s
  | kind :: rest =>
    if kind = 0xA1#8 then spiWrite p rest picks (setMiso p (List.replicate rest.length 0) s)
    else if kind = 0xA2#8 then spiReadReply p rest.length s
    else if kind = 0xA3#8 then spiReadStatus p rest.length s
    else setMiso p (List.replicate rest.length 0) s

/-! ### The rows -/

/-- VALID_SEGMENT. -/
def execValidSegment (id : CanId) (frame : List Byte) (s : State) : Host.Outcome State Fault Refusal :=
  running (sptFrame id frame) s

/-- GAP_TIMER_EXPIRY. -/
def execGapTimerExpiry (i : Fin 4) (s : State) : Host.Outcome State Fault Refusal := running (gapExpires i) s

/-- LINK_TIMER_EXPIRY. -/
def execLinkTimerExpiry (picks : List Nat) (s : State) : Host.Outcome State Fault Refusal :=
  running (linkTimerExpires picks) s

/-- SPT_REPLY_TRANSMIT. -/
def execSptReplyTransmit (s : State) : Host.Outcome State Fault Refusal := running transmitReply s

/-- SPT_REPLY_FRAME_DONE. -/
def execSptReplyFrameDone (sent : Bool) (s : State) : Host.Outcome State Fault Refusal :=
  running (replyFrameDone sent) s

/-- WRITE_MESSAGE. -/
def execWriteMessage (p : SpiPort) (mosi : List Byte) (picks : List Nat) (s : State) :
    Host.Outcome State Fault Refusal :=
  running (spiTransaction p mosi picks) s

/-- READ_REPLY. -/
def execReadReply (p : SpiPort) (clocked : Nat) (s : State) : Host.Outcome State Fault Refusal :=
  running (spiReadReply p clocked) s

/-- READ_STATUS. -/
def execReadStatus (p : SpiPort) (clocked : Nat) (s : State) : Host.Outcome State Fault Refusal :=
  running (spiReadStatus p clocked) s

end Sys2Proof.Machine
end

