-- ==== Sys2Proof/Machine/Timers.lean ====
section
/-! DEFINITION. The unit and stream timer rows (R58, R60, R95), power (R168), and one idle millisecond (log 2). -/

namespace Sys2Proof.Machine

/-- CLAIM_TIMER_EXPIRY (R58). -/
def execClaimTimerExpiry (u : UnitId) (s : State) : Host.Outcome State Fault Refusal := running (claimTimerExpires u) s

/-- PRESENCE_TIMER_EXPIRY (R60). -/
def execPresenceTimerExpiry (u : UnitId) (s : State) : Host.Outcome State Fault Refusal := running (presenceExpires u) s

/-- IDLE_TIMER_EXPIRY (R95). -/
def execIdleTimerExpiry (k : CtxId) (s : State) : Host.Outcome State Fault Refusal := running (idleExpires k) s

/-- POWER_ON: RESET_N is released and every block takes its power-on values (R168); the queue of waiting commands is not
the part's. -/
def execPowerOn (s : State) : Host.Outcome State Fault Refusal :=
  .next { State.powerOn s.raw with pending := s.pending }

/-- RESET_N_ASSERTED: a low level ends all work at once (R168). -/
def execResetNAsserted (s : State) : Host.Outcome State Fault Refusal :=
  .next { State.powerOn s.raw with inReset := true, pending := s.pending }

/-! ### One millisecond -/

/-- A running timer loses one millisecond and stays at 0 until its expiry is taken. -/
def tickTimer (t : Option Nat) : Option Nat := t.map (· - 1)

/-- One millisecond of a grant's expiry (R12): the field counts down by 1 for each whole second since the install; the
last second's end is GRANT_EXPIRY (log 25). -/
def tickGrant (g : Grant) : Grant :=
  if g.state = .vacant ∨ g.expiry = 0 then g
  else if g.subMs < 999 then { g with subMs := g.subMs + 1 }
  else if g.expiry = 1 then { g with subMs := 1000 }
  else { g with expiry := g.expiry - 1, subMs := 0 }

/-- One millisecond of an awaited reply's timer. -/
def tickAwaited (a : Awaited) : Awaited := { a with timer := a.timer - 1 }

/-- One millisecond of a unit's timers. -/
def tickUnit (un : UnitRec) : UnitRec :=
  { un with
    claimTimer := tickTimer un.claimTimer, presence := tickTimer un.presence, awaited := un.awaited.map tickAwaited }

/-- One millisecond of a stream's idle timer. -/
def tickStream (x : Stream) : Stream := { x with idle := tickTimer x.idle }

/-- One millisecond of a bus's recovery timer. -/
def tickBus (b : Bus) : Bus := { b with recovery := tickTimer b.recovery }

/-- One millisecond of an SPT reassembly's gap timer. -/
def tickReasm (r : SptReasm) : SptReasm := { r with gap := r.gap - 1 }

/-- One idle millisecond: the trail clock rises (R148) and every running timer counts down (log 2). -/
def tick (s : State) : State :=
  { s with
    filterTimers := ⟨tickTimer s.filterTimers.ign, tickTimer s.filterTimers.run, tickTimer s.filterTimers.move⟩
    grants := Vector.ofFn fun i => tickGrant (s.grants.get i)
    units := Vector.ofFn fun u => tickUnit (s.units.get u)
    streams := Vector.ofFn fun k => (s.streams.get k).map tickStream
    buses := ⟨tickBus s.buses.ub0, tickBus s.buses.ub1⟩
    monitor := { s.monitor with sampleTimer := s.monitor.sampleTimer - 1 }
    trail := { s.trail with clock := s.trail.clock + 1 }
    spt := { s.spt with
      linkTimer := tickTimer s.spt.linkTimer
      reasm := Vector.ofFn fun i => (s.spt.reasm.get i).map tickReasm }
    moment := s.moment + 1 }

/-- The block idles: the due internal steps are taken and a millisecond passes; nothing happens while RESET_N is low
(log 2, R168). -/
def idle (s : State) : State := if s.inReset then s else tick (settle s)

end Sys2Proof.Machine
end

