-- ==== Sys2Proof/Machine/Dispatch.lean ====
section
/-! DEFINITION. One arm per command: the meaning of each row. -/

namespace Sys2Proof.Machine

def exec (i : Instr) (s : State) : Host.Outcome State Fault Refusal :=
  match i with
  | .powerOn => Sys2Proof.Machine.execPowerOn s
  | .resetNAsserted => Sys2Proof.Machine.execResetNAsserted s
  | .rawLineChange line level => Sys2Proof.Machine.execRawLineChange line level s
  | .filterTimerExpiry line race => Sys2Proof.Machine.execFilterTimerExpiry line race s
  | .validSegment id frame => Sys2Proof.Machine.execValidSegment id frame s
  | .gapTimerExpiry idx => Sys2Proof.Machine.execGapTimerExpiry idx s
  | .linkTimerExpiry race => Sys2Proof.Machine.execLinkTimerExpiry race s
  | .sptReplyTransmit => Sys2Proof.Machine.execSptReplyTransmit s
  | .writeMessage port mosi race => Sys2Proof.Machine.execWriteMessage port mosi race s
  | .readReply port clocked => Sys2Proof.Machine.execReadReply port clocked s
  | .readStatus port clocked => Sys2Proof.Machine.execReadStatus port clocked s
  | .channelOpen m => Sys2Proof.Machine.execChannelOpen m s
  | .channelClose m => Sys2Proof.Machine.execChannelClose m s
  | .itemRead m => Sys2Proof.Machine.execItemRead m s
  | .faultRead m => Sys2Proof.Machine.execFaultRead m s
  | .faultClear m => Sys2Proof.Machine.execFaultClear m s
  | .routine m => Sys2Proof.Machine.execRoutine m s
  | .windowRead m => Sys2Proof.Machine.execWindowRead m s
  | .windowWrite m => Sys2Proof.Machine.execWindowWrite m s
  | .mapRead m => Sys2Proof.Machine.execMapRead m s
  | .mapWrite m => Sys2Proof.Machine.execMapWrite m s
  | .modeClaim m => Sys2Proof.Machine.execModeClaim m s
  | .keep m => Sys2Proof.Machine.execKeep m s
  | .modeRelease m => Sys2Proof.Machine.execModeRelease m s
  | .streamOpen m => Sys2Proof.Machine.execStreamOpen m s
  | .block m => Sys2Proof.Machine.execBlock m s
  | .streamEnd m => Sys2Proof.Machine.execStreamEnd m s
  | .streamAbort m => Sys2Proof.Machine.execStreamAbort m s
  | .messageBegin bus => Sys2Proof.Machine.execMessageBegin bus s
  | .frameSent bus => Sys2Proof.Machine.execFrameSent bus s
  | .frameFailed bus race => Sys2Proof.Machine.execFrameFailed bus race s
  | .recoveryTimerExpiry bus => Sys2Proof.Machine.execRecoveryTimerExpiry bus s
  | .unitReplySegment bus id frame => Sys2Proof.Machine.execUnitReplySegment bus id frame s
  | .replyTimerExpiry unit => Sys2Proof.Machine.execReplyTimerExpiry unit s
  | .waitListPromotion unit => Sys2Proof.Machine.execWaitListPromotion unit s
  | .streamContextFreed ctx => Sys2Proof.Machine.execStreamContextFreed ctx s
  | .mapJobStart => Sys2Proof.Machine.execMapJobStart s
  | .stagedRequestPromotion chan => Sys2Proof.Machine.execStagedRequestPromotion chan s
  | .channelDrained chan => Sys2Proof.Machine.execChannelDrained chan s
  | .claimTimerExpiry unit => Sys2Proof.Machine.execClaimTimerExpiry unit s
  | .presenceTimerExpiry unit => Sys2Proof.Machine.execPresenceTimerExpiry unit s
  | .idleTimerExpiry ctx => Sys2Proof.Machine.execIdleTimerExpiry ctx s
  | .grantExpiry slot race => Sys2Proof.Machine.execGrantExpiry slot race s
  | .sampleTimerExpiry => Sys2Proof.Machine.execSampleTimerExpiry s
  | .grantInstall env a => Sys2Proof.Machine.execGrantInstall env a s
  | .grantSuspend env slot => Sys2Proof.Machine.execGrantSuspend env slot s
  | .grantResume env slot => Sys2Proof.Machine.execGrantResume env slot s
  | .grantRecharge env slot allowance => Sys2Proof.Machine.execGrantRecharge env slot allowance s
  | .grantRevoke env slot race => Sys2Proof.Machine.execGrantRevoke env slot race s
  | .grantQuery env slot => Sys2Proof.Machine.execGrantQuery env slot s
  | .unitDefine env a => Sys2Proof.Machine.execUnitDefine env a s
  | .unitClear env unit => Sys2Proof.Machine.execUnitClear env unit s
  | .claimEnd env unit => Sys2Proof.Machine.execClaimEnd env unit s
  | .channelHalt env port index => Sys2Proof.Machine.execChannelHalt env port index s
  | .channelClear env port index => Sys2Proof.Machine.execChannelClear env port index s
  | .monitorSetup env a => Sys2Proof.Machine.execMonitorSetup env a s
  | .monitorSetupGlobal env steps policies => Sys2Proof.Machine.execMonitorSetupGlobal env steps policies s
  | .monitorRead env selector => Sys2Proof.Machine.execMonitorRead env selector s
  | .monitorPreload env counter value => Sys2Proof.Machine.execMonitorPreload env counter value s
  | .monitorAcknowledge env counters grants flags => Sys2Proof.Machine.execMonitorAcknowledge env counters grants flags s
  | .freeze env => Sys2Proof.Machine.execFreeze env s
  | .unfreeze env => Sys2Proof.Machine.execUnfreeze env s
  | .trailRead env count => Sys2Proof.Machine.execTrailRead env count s
  | .portSetup env reqId repId => Sys2Proof.Machine.execPortSetup env reqId repId s
  | .statusRead env => Sys2Proof.Machine.execStatusRead env s
  | .gatewayReset env => Sys2Proof.Machine.execGatewayReset env s
  | .sptReplyFrameDone sent => Sys2Proof.Machine.execSptReplyFrameDone sent s

end Sys2Proof.Machine
end

