-- ==== Sys2Proof/Safety.lean ====
section
/-! DEFINITION. What it means that the machine does not stop, and the laws of the manual that hold of its states: the
invariants that the statements are about. -/

namespace Sys2Proof.Machine

/-- The next step answers a next state: it neither faults nor refuses. -/
def Safe (s : State) : Prop := ∃ t, step s = .next t

/-- R149's law: at most 64 records, whose sequence numbers rise by one from oldest to newest up to the next number
(modulo 2 to the 32nd). -/
def TrailNumbered (t : Trail) : Prop :=
  t.records.length ≤ Config.trailDepth ∧
    t.records.map (·.seq) =
      (List.range t.records.length).map fun i => t.next - BitVec.ofNat 32 (t.records.length - i)

/-- R161: no reply queue holds more than 12 replies. -/
def RepliesBounded (s : State) : Prop := ∀ p, (repliesAt p s).length ≤ Config.replyDepth

/-- R1: a VACANT slot holds the initial values. -/
def VacantClean (s : State) : Prop := ∀ g, (grantAt g s).state = .vacant → grantAt g s = Grant.vacant

/-- R54's law: a claim is FLASH, or ENTERING with a target or prior mode of FLASH, only while the filtered RUN and MOVE
are both deasserted. -/
def FlashOnlyAtRest (s : State) : Prop :=
  ∀ u, flashBound (unitAt u s).claim = true → s.filtered.run = false ∧ s.filtered.move = false

/-- R100: the queue holds at most 4 jobs, and none unless there is an active job. -/
def MapPlaces (m : MapEngine) : Prop :=
  m.queue.length ≤ Config.mapQueueDepth ∧ (m.active = none → m.queue = [])

/-- R86: confirmed, issued, accepted and T stand in order; slot B holds the bytes between issued and accepted and at
most S of them; slot A holds issued bytes not yet confirmed, ending at issued. -/
def StreamCounts (x : Stream) : Prop :=
  x.accepted ≤ x.total ∧ x.issued + x.slotB.length ≤ x.accepted ∧ x.slotB.length ≤ x.size ∧
    match x.slotA with
    | none => x.confirmed ≤ x.issued
    | some a => x.confirmed + a.bytes.length ≤ x.issued ∧ a.offset + a.bytes.length = x.issued

/-- Every bound context keeps its counts. -/
def StreamsCounted (s : State) : Prop := ∀ k x, streamAt k s = some x → StreamCounts x

/-! ### The values after power-on -/

/-- Every block at its power-on values, with the raw lines at `raw`: grants (R1), units and claims (R45, R54, R67), channels
(R68), streams (R99), the map engine (R100), buses (R116), the monitor (R147), the trail (R148), the ports (R154, R161), the lines
(R41, R168). The manual gives no value for a FREE claim's keep period (log 10), and none for the model's own fields: the
milliseconds of a grant (log 25), the SPI bytes driven (log 20) and the moment (log 11). -/
structure PowerOnValues (raw : PerLine Bool) (t : State) : Prop where
  released : t.inReset = false
  lines : t.raw = raw ∧ t.filtered = raw ∧ ∀ l, t.filterTimers.get l = none
  grants : ∀ g, grantAt g t = {
    state := .vacant, requester := .spt, unitValue := 0, unitMask := 0, classes := 0, itemValue := 0, itemMask := 0,
    routineValue := 0, routineMask := 0, rights := #v[.none, .none, .none, .none], allowance := 0, counter := 0,
    escalate := false, expiry := 0, subMs := 0, lapse := false }
  units : ∀ v, unitAt v t = {
    defn := none, claimTimer := none, presence := none, tag := 0, out := none, wait := [], reasm := none, awaited := none,
    claim := {
      state := .free, holder := none, grant := none, target := none, prior := none, left := none, keep := 0,
      reason := none, releasePending := false } }
  chans : ∀ c, chanAt c t = {
    state := .closed, expect := .x, bufX := none, bufY := none, active := none, staged := none, binding := none,
    haltCause := none, clearPending := false }
  streams : ∀ k, streamAt k t = none
  map : t.map = ⟨none, [], none⟩
  buses : ∀ b, busAt b t = {
    state := if raw.ign then .active else .asleep, queue := [], tx := none, wire := none, errors := 0, recovery := none }
  counters : ∀ i, t.monitor.counters.get i = 0 ∧ t.monitor.flags.get i = false ∧ t.monitor.edges.get i = false
  setups : ∀ i, t.monitor.setups.get i = {
    enable := false, event := .admitted, ports := ⟨true, true, true⟩, bus := .both, unitValue := 0, unitMask := 15,
    threshold := 0, invert := false, edge := false, escalate := false }
  status : t.monitor.escalated = 0 ∧ t.monitor.trailHigh = false ∧ t.monitor.trailWrapped = false ∧
    t.monitor.busFault = false ∧ t.monitor.freeze = none
  policies : t.monitor.countWhileFrozen = false ∧ t.monitor.freezeOnGrant = false ∧ t.monitor.period = 10 ∧
    t.monitor.sampleTimer = 100
  trail : t.trail = ⟨[], 0, 0⟩
  service : t.spt.reqId = 0x7C4#11 ∧ t.spt.repId = 0x7CC#11 ∧ t.spt.link = false ∧ t.spt.linkTimer = none ∧
    (∀ i, t.spt.reasm.get i = none) ∧ t.spt.sending = none ∧ t.spt.wire = none
  replies : ∀ p, repliesAt p t = []
  outputs : t.alert = false ∧ t.rrdy = false ∧ t.vrdy = false
  model : t.miso = ⟨[], []⟩ ∧ t.moment = 0

/-! ### Words the statements use -/

/-- The part takes a command in state `u`: it is not in reset, the internal steps that are due have been taken and a
new moment begins (log 1, log 11). -/
def TakenAt (s u : State) : Prop := s.inReset = false ∧ u = advance (settle s)

/-- The reply to a supervisor command (R162): channel and buffer bit of the envelope, the code as its kind. -/
def commandReply (env : Envelope) (code : Byte) (st : Status) (payload : List Byte) : Reply where
  chan := chanOf .svp env.idx
  buf := env.buf
  kind := code
  status := st
  clamped := false
  payload := payload

/-- The reply to a request of a channel (R76). -/
def requestReply (c : ChanId) (b : Buf) (k : ReqKind) (st : Status) (clamped : Bool) (payload : List Byte) : Reply where
  chan := c
  buf := b
  kind := kindCode k
  status := st
  clamped := clamped
  payload := payload

/-- The row of a request kind. -/
def requestRow (k : ReqKind) (m : ReqMsg) : Instr :=
  match k with
  | .channelOpen => .channelOpen m
  | .channelClose => .channelClose m
  | .itemRead => .itemRead m
  | .faultRead => .faultRead m
  | .faultClear => .faultClear m
  | .routine => .routine m
  | .windowRead => .windowRead m
  | .windowWrite => .windowWrite m
  | .mapRead => .mapRead m
  | .mapWrite => .mapWrite m
  | .modeClaim => .modeClaim m
  | .keep => .keep m
  | .modeRelease => .modeRelease m
  | .streamOpen => .streamOpen m
  | .block => .block m
  | .streamEnd => .streamEnd m
  | .streamAbort => .streamAbort m

/-- The message spells the request (11.2). -/
def Spells (m : ReqMsg) (r : Request) : Prop := parseRequest (rowBody r.kind m) = some r

/-- The message's channel is IDLE, expects the message's buffer and has it free (R68 to R70). -/
structure AtIdle (m : ReqMsg) (u : State) : Prop where
  state : (chanAt m.chan u).state = .idle
  expect : (chanAt m.chan u).expect = m.buf
  free : bufferAt m.buf (chanAt m.chan u) = none
  active : (chanAt m.chan u).active = none
  staged : (chanAt m.chan u).staged = none
  binding : (chanAt m.chan u).binding = none

/-- The message's channel is STREAMING on context `k`, expects the message's buffer and has it free (R69,
R72). -/
structure AtStream (m : ReqMsg) (k : CtxId) (u : State) : Prop where
  state : (chanAt m.chan u).state = .streaming
  expect : (chanAt m.chan u).expect = m.buf
  free : bufferAt m.buf (chanAt m.chan u) = none
  staged : (chanAt m.chan u).staged = none
  binding : (chanAt m.chan u).binding = some k

/-- A reply fits into its port's queue (R161). -/
def HasRoom (p : Port) (u : State) : Prop := (repliesAt p u).length < 12

/-- The unit message of the six kinds of single request (R50's table). -/
def singleMessage (r : Request) (u : State) : Option (UnitId × UnitMsg) :=
  match r with
  | .itemRead v id => some (v, .itemFetch id)
  | .faultRead v => some (v, .faultList)
  | .faultClear v => some (v, .faultErase)
  | .routine v id arg => some (v, .routineRun id arg)
  | .windowRead v i o n => some (v, .memoryFetch (windowByte v i o u) n)
  | .windowWrite v i o data => some (v, .memoryStore (windowByte v i o u) data false)
  | _ => none

/-! ### What an end of work leaves alone -/

/-- Two records of one job, at two moments. -/
def SameJob (j i : Job) : Prop :=
  j.kind = i.kind ∧ j.chan = i.chan ∧ j.unit = i.unit ∧ j.window = i.window ∧ j.grant = i.grant

/-- Two records of one stream, at two moments; the later is concluded as the earlier was. -/
def LaterStream (y x : Stream) : Prop :=
  y.chan = x.chan ∧ y.unit = x.unit ∧ y.grant = x.grant ∧
    (x.state = .concluded → y.state = .concluded ∧ y.concluded = x.concluded)

/-- A channel record and a later one: a CLOSED channel stays CLOSED, and what its close has cleared stays clear (R78). -/
def StillClosed (x y : Channel) : Prop :=
  x.state = .closed →
    y.state = .closed ∧ (x.staged = none → y.staged = none) ∧ (x.haltCause = none → y.haltCause = none) ∧
      (x.clearPending = false → y.clearPending = false)

/-- From `s` to `t` work only ends: lines, grants, definitions, bus states and the Service Port stay, a claim is left or
unchanged, streams conclude and jobs go but none is new, and a CLOSED channel stays CLOSED. -/
structure Winds (s t : State) : Prop where
  pending : t.pending = s.pending
  inReset : t.inReset = s.inReset
  raw : t.raw = s.raw
  filtered : t.filtered = s.filtered
  filterTimers : t.filterTimers = s.filterTimers
  grants : t.grants = s.grants
  spt : t.spt = s.spt
  miso : t.miso = s.miso
  moment : t.moment = s.moment
  defs : ∀ u, (unitAt u t).defn = (unitAt u s).defn
  busStates : ∀ b, (busAt b t).state = (busAt b s).state
  claims : ∀ u, canLeave (unitAt u t).claim = true → (unitAt u t).claim = (unitAt u s).claim
  streams : ∀ k y, streamAt k t = some y → ∃ x, streamAt k s = some x ∧ LaterStream y x
  jobs : ∀ j ∈ jobsOf t.map, ∃ i ∈ jobsOf s.map, SameJob j i
  closed : ∀ c, StillClosed (chanAt c s) (chanAt c t)

/-! ### Channels after a decision -/

/-- The message's channel with its answer given: its mark flipped, its buffer free (R70, R75). -/
def answeredChannel (m : ReqMsg) (u : State) : Channel := { chanAt m.chan u with expect := otherBuf m.buf }

/-- The message's channel with its request pending at a block: the mark flipped, the buffer occupied (R70, R74). -/
def pendingChannel (k : ReqKind) (m : ReqMsg) (clamped : Bool) (place : Place) (st : ChanState) (u : State) : Channel :=
  setBuffer m.buf (some (rowBody k m))
    { chanAt m.chan u with
      state := st, expect := otherBuf m.buf,
      active := some { buf := m.buf, kind := k, clamped := clamped, place := place } }

/-- The holder's claim timer restarts with the keep period at its request's hand-off (R38, R58). -/
def heldTimerRestarted (c : ChanId) (v : UnitId) (u : State) : State :=
  let un := unitAt v u
  if un.claim.holder = some c ∧ (un.claim.state = .attended ∨ un.claim.state = .flash) then
    setUnit v { un with claimTimer := some un.claim.keep } u
  else u

/-- The window a single request names (R50). -/
def requestWindow : Request → Option (Fin 4)
  | .windowRead _ i _ _ => some i
  | .windowWrite _ i _ _ => some i
  | _ => none

/-! ### Replies and commands of the ports -/

/-- R155: the MALFORMED answer to a message that was never taken: kind FFh, CLAMPED clear, no payload. -/
def malformedReply (c : ChanId) (b : Buf) : Reply where
  chan := c
  buf := b
  kind := 0xFF#8
  status := .malformed
  clamped := false
  payload := []

/-- The row of a parsed supervisor command (R162); a MONITOR SETUP whose first argument names no form has none. -/
def commandRow (env : Envelope) (race : List Nat) (q : Command) : Option Instr :=
  match q with
  | .grantInstall a => some (.grantInstall env a)
  | .grantSuspend slot => some (.grantSuspend env slot)
  | .grantResume slot => some (.grantResume env slot)
  | .grantRecharge slot allowance => some (.grantRecharge env slot allowance)
  | .grantRevoke slot => some (.grantRevoke env slot race)
  | .grantQuery slot => some (.grantQuery env slot)
  | .unitDefine a => some (.unitDefine env a)
  | .unitClear unit => some (.unitClear env unit)
  | .claimEnd unit => some (.claimEnd env unit)
  | .channelHalt port index => some (.channelHalt env port index)
  | .channelClear port index => some (.channelClear env port index)
  | .monitorSetup a => some (.monitorSetup env a)
  | .monitorSetupGlobal steps policies => some (.monitorSetupGlobal env steps policies)
  | .monitorBadSelector => none
  | .monitorRead selector => some (.monitorRead env selector)
  | .monitorPreload counter value => some (.monitorPreload env counter value)
  | .monitorAcknowledge counters grants flags => some (.monitorAcknowledge env counters grants flags)
  | .freeze => some (.freeze env)
  | .unfreeze => some (.unfreeze env)
  | .trailRead count => some (.trailRead env count)
  | .portSetup reqId repId => some (.portSetup env reqId repId)
  | .statusRead => some (.statusRead env)
  | .gatewayReset => some (.gatewayReset env)

/-! ### What an event has ended -/

/-- Nothing runs under the grant in slot `g`: no claim in ENTERING, ATTENDED or FLASH, no stream that is not CONCLUDED, no map
job names it (R18). -/
structure NothingUnder (g : Slot) (v : State) : Prop where
  claims : ∀ w, canLeave (unitAt w v).claim = true → (unitAt w v).claim.grant ≠ some g
  streams : ∀ k x, streamAt k v = some x → x.grant = g → x.state = .concluded
  jobs : ∀ j ∈ jobsOf v.map, j.grant ≠ g

/-- No stream that is not CONCLUDED and no map job stands on a unit of bus `b` (R97, R114). -/
structure NothingOnBus (b : BusId) (v : State) : Prop where
  streams : ∀ k x, streamAt k v = some x → unitBus x.unit v = some b → x.state = .concluded
  jobs : ∀ j ∈ jobsOf v.map, unitBus j.unit v ≠ some b

/-- A unit's record once its bus has left ACTIVE (R66, R129): its entries, awaited reply, reassembly and claim are gone;
definition and tag stay. -/
def busEndedUnit (un : UnitRec) : UnitRec := { UnitRec.initial with defn := un.defn, tag := un.tag }

/-- The entries of unit `w` for which `p` holds are gone, but for an outstanding one that has been begun on the bus
(R53, R122). -/
def NoneUnbegun (p : Entry → Bool) (w : UnitId) (v : State) : Prop :=
  (∀ e ∈ (unitAt w v).wait, p e = false) ∧ ∀ e, (unitAt w v).out = some e → p e = true → isBegun w v = true

/-- The level of a level event under a setup's filters (R137). -/
def levelHeld (c : Setup) (u : State) : Option Nat :=
  let onPort := fun ch : ChanId => c.ports.get (chanPort ch)
  let onBus := fun b : Option BusId =>
    match c.bus with
    | .both => true
    | .ub0 => b == some .ub0
    | .ub1 => b == some .ub1
  let onUnit := fun w : UnitId => maskedMatch (BitVec.ofNat 4 w.val) c.unitValue c.unitMask && onBus (unitBus w u)
  match c.event with
  | .channelsBusy => some ((List.finRange 12).filter fun ch =>
      onPort ch && ((chanAt ch u).state == .busy || (chanAt ch u).state == .streaming)).length
  | .waiting => some ((List.finRange 16).map fun w =>
      if (unitAt w u).defn.isSome && onUnit w then
        ((unitAt w u).wait.filter fun e =>
          match e.source with
          | .channel ch => onPort ch
          | .stream _ ch => onPort ch
          | _ => false).length
      else 0).sum
  | .busQueue => some ((if onBus (some .ub0) then (busAt .ub0 u).queue.length else 0) +
      if onBus (some .ub1) then (busAt .ub1 u).queue.length else 0)
  | .mapQueue => some ((jobsOf u.map).filter fun j => onPort j.chan && onUnit j.unit).length
  | _ => none

end Sys2Proof.Machine
end

