-- ==== Sys2Proof/Certificates/Slice0/Obligations.lean ====
section
/-! DEFINITION. The statements for the provers. Unless a docstring says otherwise, `u` is the state in which the command
is taken: `s` after the internal steps that are due, at a new moment (`TakenAt`, log 1 and log 11). -/

open Sys2Proof Sys2Proof.Machine

/-! ### The step, the reset and the laws -/

/-- A step takes the command at the front of the queue. -/
def Obligations.StepTakesTheFrontCommand : Prop :=
  ∀ (c : Instr) (rest : List Instr) (s : State),
    step { s with pending := c :: rest } = exec c { s with pending := rest }

/-- With nothing commanded, one millisecond passes (the model's choice, log 2): the trail clock rises by 1 (R148), every
running timer loses a millisecond, the seconds of every grant with an expiry run on (R12; the field stays at 1 until its
expiry is taken, the model's choice, log 25), the model's moment rises (log 11), and nothing else changes but by the due
internal steps (log 1). In reset nothing happens. -/
def Obligations.EmptyQueueIdlesOneMillisecond : Prop :=
  ∀ s : State, s.pending = [] →
    (s.inReset = true → step s = .next s) ∧
    (s.inReset = false → ∃ t, step s = .next t ∧
      t.inReset = false ∧ t.pending = [] ∧
      t.trail = { (settle s).trail with clock := (settle s).trail.clock + 1 } ∧
      t.monitor = { (settle s).monitor with sampleTimer := (settle s).monitor.sampleTimer - 1 } ∧
      (∀ l, t.filterTimers.get l = ((settle s).filterTimers.get l).map (· - 1)) ∧
      (∀ g,
        let x := grantAt g (settle s)
        (x.state = .vacant ∨ x.expiry = 0 → grantAt g t = x) ∧
        (x.state ≠ .vacant → x.expiry ≠ 0 →
          (x.subMs < 999 → grantAt g t = { x with subMs := x.subMs + 1 }) ∧
          (999 ≤ x.subMs → x.expiry ≠ 1 → grantAt g t = { x with expiry := x.expiry - 1, subMs := 0 }) ∧
          (999 ≤ x.subMs → x.expiry = 1 → grantAt g t = { x with subMs := 1000 }))) ∧
      (∀ v, unitAt v t = { unitAt v (settle s) with
        claimTimer := (unitAt v (settle s)).claimTimer.map (· - 1)
        presence := (unitAt v (settle s)).presence.map (· - 1)
        awaited := (unitAt v (settle s)).awaited.map fun a => { a with timer := a.timer - 1 } }) ∧
      (∀ k, streamAt k t = (streamAt k (settle s)).map fun x => { x with idle := x.idle.map (· - 1) }) ∧
      (∀ b, busAt b t = { busAt b (settle s) with recovery := (busAt b (settle s)).recovery.map (· - 1) }) ∧
      t.spt = { (settle s).spt with linkTimer := (settle s).spt.linkTimer.map (· - 1), reasm := t.spt.reasm } ∧
      (∀ i, t.spt.reasm.get i = ((settle s).spt.reasm.get i).map fun r => { r with gap := r.gap - 1 }) ∧
      t.chans = (settle s).chans ∧ t.map = (settle s).map ∧ t.replies = (settle s).replies ∧
      t.miso = (settle s).miso ∧ t.moment = (settle s).moment + 1 ∧
      t.raw = s.raw ∧ t.filtered = s.filtered)

/-- Right after reset every block holds its power-on values, listed in `PowerOnValues`, with the raw lines deasserted (the
model's choice, log 7), so both buses start ASLEEP; no command waits. Of the listed values the keep period of a FREE claim (log
10), the moment (log 11), the SPI bytes driven (log 20) and a grant's milliseconds (log 25) are the model's. -/
def Obligations.ResetGivesPowerOnValues : Prop :=
  PowerOnValues ⟨false, false, false⟩ State.reset ∧ (∀ b, (busAt b State.reset).state = .asleep) ∧ State.reset.pending = []

/-- R168: while RESET_N is low no frame, SPI byte or event is taken, and ALERT, RRDY and VRDY are deasserted; the release of
the pin, its assertion and the truck's raw lines are not the part's to refuse (log 6). POWER_ON, taken in every state (log 8),
brings every block to its power-on values, listed in `PowerOnValues`, with the filtered lines at their raw levels and each bus
ACTIVE or ASLEEP by IGN. RESET_N_ASSERTED ends all work at once and deasserts the outputs: the part holds the values of its
release, in reset. Both leave the raw lines and the waiting commands as they are (log 9). -/
def Obligations.PowerOnAndResetAssertion : Prop :=
  ∀ s : State,
    (s.inReset = true →
      (∀ c : Instr, c ≠ .powerOn → c ≠ .resetNAsserted → (∀ l b, c ≠ .rawLineChange l b) → exec c s = .next s) ∧
      s.alert = false ∧ s.rrdy = false ∧ s.vrdy = false) ∧
    (∃ t, exec .powerOn s = .next t ∧ PowerOnValues s.raw t ∧ t.pending = s.pending) ∧
    (∃ t, exec .resetNAsserted s = .next t ∧ t.inReset = true ∧ PowerOnValues s.raw { t with inReset := false } ∧
      t.alert = false ∧ t.rrdy = false ∧ t.vrdy = false ∧ t.pending = s.pending)

/-- Every command answers a next state in every state: the manual gives each event an outcome. -/
def Obligations.EveryCommandAnswersANextState : Prop := ∀ (c : Instr) (s : State), ∃ t, exec c s = .next t

/-- R149's law, kept by every step. -/
def Obligations.EveryStepKeepsTheTrailNumbered : Prop :=
  ∀ s t : State, TrailNumbered s.trail → step s = .next t → TrailNumbered t.trail

/-- R161 and R100: no reply queue passes 12 replies, and the map queue holds at most 4 jobs, none without an active job,
kept by every step. -/
def Obligations.EveryStepKeepsTheQueuesBounded : Prop :=
  ∀ s t : State, step s = .next t → (RepliesBounded s → RepliesBounded t) ∧ (MapPlaces s.map → MapPlaces t.map)

/-- R1: a VACANT slot holds the initial values, kept by every step. -/
def Obligations.EveryStepKeepsVacantSlotsInitial : Prop :=
  ∀ s t : State, VacantClean s → step s = .next t → VacantClean t

/-- R54's law with the edges of R42 and R43: a claim is FLASH, or bound for it, only while RUN and MOVE are deasserted,
kept by every step, whatever the order of an edge's consequences. -/
def Obligations.EveryStepKeepsFlashAtRest : Prop :=
  ∀ s t : State, FlashOnlyAtRest s → step s = .next t → FlashOnlyAtRest t

/-- R86: the counts of every bound stream context stay in order, kept by every step. -/
def Obligations.EveryStepKeepsStreamCounts : Prop :=
  ∀ s t : State, StreamsCounted s → step s = .next t → StreamsCounted t

/-- The laws hold right after reset. -/
def Obligations.LawsHoldAtReset : Prop :=
  TrailNumbered State.reset.trail ∧ RepliesBounded State.reset ∧ MapPlaces State.reset.map ∧ VacantClean State.reset ∧
    FlashOnlyAtRest State.reset ∧ StreamsCounted State.reset

/-- Every number on a wire is little-endian (1.8). 11.2: the body written from a request's fields is read as that request, for
every request a body can spell. 11.5: the body of a unit message is its kind, tag, payload length and flags byte (the program
mark of R166 alone) and its payload. 11.1, R165: a segment's frame is its header (FIRST, LAST, index, channel, buffer bit),
its length byte, its share of the body and 00h up to the shortest CAN FD length that holds them. -/
def Obligations.RequestBodiesReadBack : Prop :=
  (∀ n : Nat, leBytes 2 n = [BitVec.ofNat 8 n, BitVec.ofNat 8 (n / 256)] ∧
    leBytes 4 n =
      [BitVec.ofNat 8 n, BitVec.ofNat 8 (n / 256), BitVec.ofNat 8 (n / 65536), BitVec.ofNat 8 (n / 16777216)]) ∧
  (∀ r : Request, r.wf = true → parseRequest (encodeRequest r) = some r) ∧
  (∀ (tag : BitVec 4) (msg : UnitMsg),
    let laid := fun (kind : Byte) (mark : Byte) (payload : List Byte) =>
      [kind, BitVec.ofNat 8 tag.toNat, BitVec.ofNat 8 payload.length, mark] ++ payload
    unitMsgBody tag msg =
      match msg with
      | .itemFetch id => laid 0x21 0 (leBytes 2 id.toNat)
      | .faultList => laid 0x22 0 []
      | .faultErase => laid 0x23 0 []
      | .routineRun id arg => laid 0x24 0 (leBytes 2 id.toNat ++ arg)
      | .memoryFetch addr n => laid 0x25 0 (leBytes 4 addr ++ [BitVec.ofNat 8 n])
      | .memoryStore addr data mark => laid 0x26 (if mark then 1 else 0) (leBytes 4 addr ++ data)
      | .modeEnter mode => laid 0x27 0 [if mode = .attended then 1 else 2]
      | .modeBase => laid 0x28 0 []
      | .presence => laid 0x29 0 []) ∧
  (∀ (id : CanId) (chan : Nat) (b : Buf) (body : List Byte) (n : Nat),
    let lengths := [0, 1, 2, 3, 4, 5, 6, 7, 8, 12, 16, 20, 24, 32, 48, 64]
    let share := (body.drop (62 * n)).take 62
    let header := (if n = 0 then 128 else 0) + (if n + 1 = (body.length + 61) / 62 then 64 else 0) + 16 * n + 4 * chan +
      (if b = .y then 2 else 0)
    (segmentFrame id chan b body n).id = id ∧
    ∃ pad : Nat, (segmentFrame id chan b body n).bytes =
        BitVec.ofNat 8 header :: (if n = 0 then BitVec.ofNat 8 body.length else 0) :: (share ++ List.replicate pad 0) ∧
      2 + share.length + pad ∈ lengths ∧ ∀ l ∈ lengths, 2 + share.length ≤ l → 2 + share.length + pad ≤ l)


/-! ### What the blocks report, record and queue -/

/-- R149, R151: a record takes the next sequence number and the clock; a full trail loses its oldest record; TRAIL_WRAPPED is
handed by an overwrite, TRAIL_HIGH when 48 or more records are then held; nothing else changes. TRAIL_READ (R152) answers the
oldest records and removes them; the next number, the clock and the flags stay. -/
def Obligations.TrailIsWrittenAndRead : Prop :=
  (∀ (p : Option Port) (c : Option ChanId) (g : Option Slot) (v : Option UnitId) (d : Detail) (s : State),
    writeRecord p c g v d s = { s with
      trail := {
        records := (if s.trail.records.length < 64 then s.trail.records else s.trail.records.tail) ++
          [{ seq := s.trail.next, time := s.trail.clock, requester := p, chan := c, grant := g, unit := v, detail := d }]
        next := s.trail.next + 1
        clock := s.trail.clock }
      monitor := { s.monitor with
        trailWrapped := s.monitor.trailWrapped || decide (64 ≤ s.trail.records.length)
        trailHigh := s.monitor.trailHigh || decide (47 ≤ s.trail.records.length) } }) ∧
  (∀ (env : Envelope) (n : Byte) (s u : State), TakenAt s u →
    ((n = 0 ∨ 8 < n.toNat) → exec (.trailRead env n) s = .next (offerReply (commandReply env 0x96 .badArgument []) false u)) ∧
    (1 ≤ n.toNat → n.toNat ≤ 8 → exec (.trailRead env n) s = .next (offerReply
      (commandReply env 0x96 .done
        ([byte (u.trail.records.take n.toNat).length, byte (u.trail.records.drop n.toNat).length] ++
          (u.trail.records.take n.toNat).flatMap recordImage)) false
      { u with trail := { u.trail with records := u.trail.records.drop n.toNat } })))

/-- R136, R139: an occurrence advances by 1 every enabled counter of its event whose filters it passes; a counter at the
top wraps to 0 and sets its flag; flags newly set are one COUNTER trigger if a counter among them escalates. Nothing is
counted while the freeze is ON without COUNT_WHILE_FROZEN. Only the monitor and, by a freeze, the trail change. -/
def Obligations.OccurrenceAdvancesPassingCounters : Prop :=
  ∀ (r : Report) (s : State),
    let passes := fun i : Fin 8 =>
      let c := s.monitor.setups.get i
      c.enable && decide (c.event = r.event) &&
        (match r.port with
          | some p => c.ports.get p
          | none => c.ports.spt && c.ports.rpt && c.ports.svp) &&
        (match r.bus with
          | some .ub0 => decide (c.bus = .ub0 ∨ c.bus = .both)
          | some .ub1 => decide (c.bus = .ub1 ∨ c.bus = .both)
          | none => decide (c.bus = .both)) &&
        (match r.unit with
          | some v => maskedMatch (BitVec.ofNat 4 v.val) c.unitValue c.unitMask
          | none => decide (c.unitMask = 15#4))
    let newly := fun i => passes i && decide (s.monitor.counters.get i = 0xFFFFFFFF#32) && !s.monitor.flags.get i
    (s.monitor.freeze.isSome = true → s.monitor.countWhileFrozen = false → report r s = s) ∧
    ((s.monitor.freeze = none ∨ s.monitor.countWhileFrozen = true) →
      (∀ i, (report r s).monitor.counters.get i =
        if passes i then s.monitor.counters.get i + 1 else s.monitor.counters.get i) ∧
      (∀ i, (report r s).monitor.flags.get i = (s.monitor.flags.get i || newly i)) ∧
      (report r s).monitor.setups = s.monitor.setups ∧ (report r s).monitor.edges = s.monitor.edges ∧
      (report r s).monitor.escalated = s.monitor.escalated ∧
      (if s.monitor.freeze = none ∧ ∃ i, newly i = true ∧ (s.monitor.setups.get i).escalate = true then
        ∃ set : BitVec 8, (∀ i : Fin 8, set.getLsbD i.val = newly i) ∧
          (report r s).monitor.freeze = some (.counter set) ∧
          (report r s).trail = appendRecord s.trail none none none none (.freeze (.counter set))
      else (report r s).monitor.freeze = s.monitor.freeze ∧ (report r s).trail = s.trail)) ∧
    (∃ m tr, report r s = { s with monitor := m, trail := tr })

/-- R143, R144: FREEZE turns an OFF freeze ON with cause COMMAND and writes a FREEZE record, and leaves an ON freeze as it
is; UNFREEZE turns it OFF with an UNFREEZE record, and is answered WRONG_STATE while it is OFF. -/
def Obligations.FreezeAndUnfreeze : Prop :=
  ∀ (env : Envelope) (s u : State), TakenAt s u →
    let answered := fun code st w => offerReply (commandReply env code st []) false w
    (u.monitor.freeze = none → exec (.freeze env) s = .next (answered 0x94 .done
      (writeRecord none none none none (.freeze .command)
        { u with monitor := { u.monitor with freeze := some .command } }))) ∧
    (∀ cause, u.monitor.freeze = some cause →
      exec (.freeze env) s = .next (answered 0x94 .done u) ∧
      exec (.unfreeze env) s = .next (answered 0x95 .done
        (writeRecord none none none none .unfreeze { u with monitor := { u.monitor with freeze := none } }))) ∧
    (u.monitor.freeze = none → exec (.unfreeze env) s = .next (answered 0x95 .wrongState u))

/-- R146 (with R168: while RESET_N is low it is deasserted): ALERT is asserted exactly while the freeze is ON or an item of
the monitor status is set, and it is deasserted after power-on. -/
def Obligations.AlertFollowsFreezeAndStatus : Prop :=
  (∀ s : State, s.inReset = false →
    (s.alert = true ↔ s.monitor.freeze ≠ none ∨ (∃ i : Fin 8, s.monitor.flags.get i = true) ∨ s.monitor.escalated ≠ 0 ∨
      s.monitor.trailHigh = true ∨ s.monitor.trailWrapped = true ∨ s.monitor.busFault = true)) ∧
  (∀ s : State, s.inReset = true → s.alert = false) ∧
  (∀ raw : PerLine Bool, (State.powerOn raw).alert = false)

/-- R161, R82: a reply offered to a queue of fewer than 12 joins its tail; otherwise it is dropped, one REPLY_DROPPED
occurrence is reported, and if it answered an admitted request a working channel is HALTED, its staged request dropped. -/
def Obligations.ReplyJoinsTheTailOrIsDropped : Prop :=
  ∀ (r : Reply) (admitted : Bool) (s : State),
    let p := chanPort r.chan
    ((repliesAt p s).length < 12 →
      repliesAt p (offerReply r admitted s) = repliesAt p s ++ [r] ∧
      (∀ q, q ≠ p → repliesAt q (offerReply r admitted s) = repliesAt q s) ∧
      offerReply r admitted s = { s with replies := (offerReply r admitted s).replies }) ∧
    (12 ≤ (repliesAt p s).length →
      let s1 := report ⟨.replyDropped, some p, none, none⟩ s
      (admitted = false → offerReply r admitted s = s1) ∧
      (admitted = true → (chanAt r.chan s).state = .closed ∨ (chanAt r.chan s).state = .halted → offerReply r admitted s = s1) ∧
      (admitted = true → (chanAt r.chan s).state ≠ .closed → (chanAt r.chan s).state ≠ .halted →
        offerReply r admitted s = setChan r.chan
          { dropStaged (chanAt r.chan s) with state := .halted, haltCause := some .replyDropped, clearPending := false } s1))

/-- R51, R118, R119: an entry placed on a unit with nothing outstanding becomes its outstanding entry, joins its bus's queue
with its class (R120) and takes the unit's tag, which advances; otherwise it joins the tail of the wait list, or, being the
base request, its head. Nothing else changes. -/
def Obligations.PlacedEntryTakesItsPosition : Prop :=
  ∀ (v : UnitId) (e : Entry) (d : UnitDef) (s : State), (unitAt v s).defn = some d →
    ((unitAt v s).out = none → (unitAt v s).wait = [] →
      placeEntry v e s =
        setUnit v { unitAt v s with out := some e, tag := (unitAt v s).tag + 1 }
          (setBus d.bus { busAt d.bus s with queue := (busAt d.bus s).queue ++
            [{ unit := v, msg := e.msg, source := some e.source, entered := s.moment, tag := (unitAt v s).tag, reqId := d.reqId,
               cls := match sourceChan e.source with
                 | none => 1
                 | some c => if 8 ≤ c.val then 2 else 3 }] } s)) ∧
    ((unitAt v s).out ≠ none → e.source ≠ .base →
      placeEntry v e s = setUnit v { unitAt v s with wait := (unitAt v s).wait ++ [e] } s) ∧
    ((unitAt v s).out ≠ none → e.source = .base →
      placeEntry v e s = setUnit v { unitAt v s with wait := e :: (unitAt v s).wait } s)

/-! ### The admission check -/

/-- R2: the masked compare holds exactly where the values agree outside the mask; a mask of 0 leaves equality, a full mask
matches all; the unit compare is over 4 bits, the item and routine compares over 16. -/
def Obligations.MaskedCompareIgnoresMaskedBits : Prop :=
  (∀ (w : Nat) (v a k : BitVec w),
    (maskedMatch v a k = true ↔ ∀ i, i < w → k.getLsbD i = false → v.getLsbD i = a.getLsbD i) ∧
    (maskedMatch v a 0 = true ↔ v = a) ∧ maskedMatch v a (BitVec.allOnes w) = true) ∧
  (∀ (g : Grant) (v : UnitId), matchesUnit g v = true ↔
    ∀ i, i < 4 → g.unitMask.getLsbD i = false → v.val.testBit i = g.unitValue.getLsbD i) ∧
  (∀ (g : Grant) (v : UnitId) (id : BitVec 16) (arg : List Byte) (s : State),
    (furtherMatch (.itemRead v id) g s = true ↔
      ∀ i, i < 16 → g.itemMask.getLsbD i = false → id.getLsbD i = g.itemValue.getLsbD i) ∧
    (furtherMatch (.routine v id arg) g s = true ↔
      ∀ i, i < 16 → g.routineMask.getLsbD i = false → id.getLsbD i = g.routineValue.getLsbD i))

/-- The laws of the form, freeze, bus and grant stages (R23 to R28): an admitted request is well formed, its unit is
DEFINED on an ACTIVE bus, it is exempt while the freeze is ON, and it is paid by an ACTIVE grant of its port that can pay;
and what fails first of form, unit, freeze and bus gives the refusal. R21: past those, the first of the grant, claim, interlock,
range and capacity stages that fails gives it, and a request that passes all is admitted with its selected grant and its plan.
R36: the capacity stage by kind, after the claim stage has let only the holder repeat its mode. -/
def Obligations.AdmittedOnlyUnderTheLaws : Prop :=
  (∀ (c : ChanId) (body : List Byte) (s : State) (r : Request) (g : Option Slot) (p : Plan),
    check c body s = .admitted r g p →
      parseRequest body = some r ∧
      (∀ v, r.unit = some v → ∃ d, (unitAt v s).defn = some d ∧ (busAt d.bus s).state = .active) ∧
      (s.monitor.freeze ≠ none →
        chanPort c = .svp ∨ r.kind ∈ [.keep, .modeRelease, .streamEnd, .streamAbort, .channelClose]) ∧
      (r.kind ∈ [.itemRead, .faultRead, .faultClear, .routine, .windowRead, .windowWrite, .mapRead, .mapWrite,
          .modeClaim, .streamOpen] →
        ∃ i, g = some i ∧ (grantAt i s).state = .active ∧ (grantAt i s).requester = chanPort c ∧
          canPay (grantAt i s) p.cost = true) ∧
      (r.kind = .channelOpen → ∃ i, (grantAt i s).state = .active ∧ (grantAt i s).requester = chanPort c) ∧
      (r.kind ∈ [.channelOpen, .channelClose, .keep, .modeRelease, .block, .streamEnd, .streamAbort] → p.cost = 0)) ∧
  (∀ (c : ChanId) (body : List Byte) (s : State),
    (parseRequest body = none → check c body s = .refused .malformed) ∧
    (∀ r, parseRequest body = some r →
      let undefinedUnit := ∃ v, r.unit = some v ∧ (unitAt v s).defn = none
      let frozen := s.monitor.freeze ≠ none ∧ chanPort c ≠ .svp ∧
        r.kind ∉ [.keep, .modeRelease, .streamEnd, .streamAbort, .channelClose]
      (undefinedUnit → check c body s = .refused .noUnit) ∧
      (¬ undefinedUnit → frozen → check c body s = .refused .frozen) ∧
      (∀ v d, r.unit = some v → (unitAt v s).defn = some d → ¬ frozen →
        ((busAt d.bus s).state = .off → check c body s = .refused .busFault) ∧
        ((busAt d.bus s).state = .asleep → check c body s = .refused .unitAsleep))) ∧
    (∀ r, parseRequest body = some r →
      (∀ v, r.unit = some v → ∃ d, (unitAt v s).defn = some d ∧ (busAt d.bus s).state = .active) →
      s.monitor.freeze = none ∨ chanPort c = .svp ∨
        r.kind ∈ [.keep, .modeRelease, .streamEnd, .streamAbort, .channelClose] →
      check c body s =
        match grantStage c r s, claimStage c r s, interlockStage r s, rangeStage r s, capacityStage r s with
        | some st, _, _, _, _ => .refused st
        | none, some st, _, _, _ => .refused st
        | none, none, some st, _, _ => .refused st
        | none, none, none, some st, _ => .refused st
        | none, none, none, none, some st => .refused st
        | none, none, none, none, none => .admitted r (selectGrant c r s) (planOf r s))) ∧
  (∀ (r : Request) (s : State),
    let full := fun v => (unitAt v s).out ≠ none ∧
      4 ≤ ((unitAt v s).wait.filter fun e => match e.source with
        | .channel _ => true
        | .stream _ _ => true
        | .mapRow _ => false
        | .base => false).length
    let mapFull := s.map.active ≠ none ∧ 4 ≤ s.map.queue.length
    let repeats := fun v mode => (unitAt v s).claim.state = match mode with
      | Mode.attended => ClaimState.attended
      | Mode.flash => ClaimState.flash
    (∀ v, r.unit = some v → r.kind ∈ [.itemRead, .faultRead, .faultClear, .routine, .windowRead, .windowWrite] ∨
        (∃ mode count, r = .modeClaim v mode count ∧ ¬ repeats v mode) →
      (full v → capacityStage r s = some .unitBusy) ∧ (¬ full v → capacityStage r s = none)) ∧
    (∀ v mode count, r = .modeClaim v mode count → repeats v mode → capacityStage r s = none) ∧
    (r.kind = .mapRead ∨ (r.kind = .mapWrite ∧ (planOf r s).cost ≠ 0) →
      (mapFull → capacityStage r s = some .engineBusy) ∧ (¬ mapFull → capacityStage r s = none)) ∧
    (r.kind = .mapWrite → (planOf r s).cost = 0 → capacityStage r s = none) ∧
    (r.kind = .streamOpen →
      ((∀ k, streamAt k s ≠ none) → capacityStage r s = some .noRoom) ∧
      ((∃ k, streamAt k s = none) → capacityStage r s = none)) ∧
    (r.kind ∈ [.channelOpen, .channelClose, .keep, .modeRelease, .block, .streamEnd, .streamAbort] →
      capacityStage r s = none))

/-- R26, R27: the selected grant is the lowest-numbered ACTIVE candidate that can pay the cost; without one the refusal is
BUDGET, SUSPENDED, BUDGET or NO_GRANT by the candidates' states. -/
def Obligations.GrantSelection : Prop :=
  ∀ (c : ChanId) (r : Request) (v : UnitId) (b : Nat) (s : State), r.unit = some v → kindClass r.kind = some b →
    let right := fun i : Slot => fun w : Fin 4 => (grantAt i s).rights.get w
    let further := fun i : Slot =>
      match r with
      | .itemRead _ id => maskedMatch id (grantAt i s).itemValue (grantAt i s).itemMask = true
      | .routine _ id _ => maskedMatch id (grantAt i s).routineValue (grantAt i s).routineMask = true
      | .windowRead _ w _ _ => right i w ≠ .none
      | .windowWrite _ w _ _ => right i w = .readWrite
      | .mapRead _ j _ _ _ _ => ∀ m, mapAt v j s = some m → right i m.window ≠ .none
      | .mapWrite _ j _ _ _ _ _ _ _ => ∀ m, mapAt v j s = some m → right i m.window = .readWrite
      | _ => True
    let candidate := fun i : Slot =>
      (grantAt i s).state ∈ [.active, .suspended, .spent] ∧ (grantAt i s).requester = chanPort c ∧
        maskedMatch (BitVec.ofNat 4 v.val) (grantAt i s).unitValue (grantAt i s).unitMask = true ∧
        (grantAt i s).classes.getLsbD b = true ∧ further i
    let qualifies := fun i : Slot => candidate i ∧ (grantAt i s).state = .active ∧ canPay (grantAt i s) (costOf r s) = true
    (∀ i, selectGrant c r s = some i ↔ qualifies i ∧ ∀ j, j < i → ¬ qualifies j) ∧
    (∀ i, qualifies i → grantStage c r s = none) ∧
    ((∀ i, ¬ qualifies i) →
      let found := fun st => ∃ i, candidate i ∧ (grantAt i s).state = st
      (found .active → grantStage c r s = some .budget) ∧
      (¬ found .active → found .suspended → grantStage c r s = some .suspended) ∧
      (¬ found .active → ¬ found .suspended → found .spent → grantStage c r s = some .budget) ∧
      ((∀ i, ¬ candidate i) → grantStage c r s = some .noGrant))

/-- R14 to R16, R141: the remaining budget; a charge of an unmetered grant or of 0 changes nothing; a charge within the
budget advances the counter; a charge of all of it reads 0, makes the grant SPENT and, with escalate, lists the grant,
which freezes under FREEZE_ON_GRANT when it is new. R37, R39, R40: an admission is charged, recorded for five kinds, and
reported ADMITTED, in that order (the model's choice, log 16). -/
def Obligations.ChargeAdvancesTheBudgetCounter : Prop :=
  (∀ (c : ChanId) (r : Request) (g : Option Slot) (cost : Nat) (s : State),
    let charged := match g with
      | some i => charge i cost s
      | none => s
    let record := fun d => writeRecord (some (chanPort c)) (some c) g r.unit d charged
    noteAdmission c r g cost s =
      report ⟨.admitted, some (chanPort c), r.unit.bind fun v => unitBus v s, r.unit⟩
        (match r with
          | .faultClear _ => record .faultClear
          | .routine _ id _ => record (.routine id)
          | .windowWrite _ i o data => record (.write i o data.length)
          | .mapWrite _ j r0 c0 w1 h1 _ _ _ => record (.mapWrite j r0 c0 w1 h1)
          | .streamOpen _ i _ _ start total => record (.stream i start total none)
          | _ => charged)) ∧
  (∀ (g : Slot) (cost : Nat) (s : State),
    let x := grantAt g s
    let spent := setGrant g { x with counter := 0, state := .spent } s
    let listed := { spent with monitor := { s.monitor with escalated := s.monitor.escalated ||| BitVec.twoPow 32 g.val } }
    (x.allowance = 0 → remaining x = none ∧ ∀ n, canPay x n = true) ∧
    (x.allowance ≠ 0 → x.counter = 0 → remaining x = some 0) ∧
    (x.allowance ≠ 0 → x.counter ≠ 0 → remaining x = some (1048576 - x.counter.toNat)) ∧
    (x.allowance = 0 ∨ cost = 0 → charge g cost s = s) ∧
    (∀ n, remaining x = some n → 1 ≤ cost → cost ≤ n →
      (canPay x cost = true) ∧
      (cost < n → charge g cost s = setGrant g { x with counter := x.counter + BitVec.ofNat 20 cost } s ∧
        remaining { x with counter := x.counter + BitVec.ofNat 20 cost } = some (n - cost)) ∧
      (cost = n →
        (x.escalate = false → charge g cost s = spent) ∧
        (x.escalate = true → s.monitor.escalated.getLsbD g.val = true → charge g cost s = spent) ∧
        (x.escalate = true → s.monitor.escalated.getLsbD g.val = false →
          (s.monitor.freezeOnGrant = false ∨ s.monitor.freeze ≠ none → charge g cost s = listed) ∧
          (s.monitor.freezeOnGrant = true → s.monitor.freeze = none →
            charge g cost s = writeRecord none none none none (.freeze (.grant g))
              { listed with monitor := { listed.monitor with freeze := some (.grant g) } })))))

/-- R29, R30: what the claim stage answers for each kind that carries a unit. -/
def Obligations.ClaimStageTests : Prop :=
  ∀ (c : ChanId) (r : Request) (v : UnitId) (s : State), r.unit = some v →
    let cl := (unitAt v s).claim
    let mine := cl.holder = some c
    let reserved := ¬ mine ∧ (cl.state = .flash ∨
      (cl.state = .entering ∧ (cl.target = some .flash ∨ cl.prior = some .flash)) ∨
      (cl.state = .leaving ∧ cl.left = some .flash))
    (r.kind ∈ [.itemRead, .faultRead, .windowRead, .mapRead] →
      claimStage c r s = if reserved then some .held else none) ∧
    (r.kind ∈ [.faultClear, .routine, .windowWrite, .mapWrite] →
      claimStage c r s =
        if cl.state = .free then some .notClaimed
        else if ¬ mine then some .held
        else if cl.state = .attended ∨ cl.state = .flash then none
        else some .notClaimed) ∧
    (r.kind = .streamOpen →
      claimStage c r s =
        if cl.state = .free then some .notClaimed
        else if ¬ mine then some .held
        else if cl.state = .flash then none
        else some .notClaimed) ∧
    (r.kind = .modeClaim →
      claimStage c r s =
        if cl.state = .free ∨ (mine ∧ (cl.state = .attended ∨ cl.state = .flash)) then none else some .held) ∧
    (r.kind ∈ [.keep, .modeRelease] →
      claimStage c r s = if mine ∧ (cl.state = .attended ∨ cl.state = .flash) then none else some .notClaimed)

/-- R31: the interlock stage, by kind, on the filtered lines. A write to an undefined window or map finds no LIVE window; while
the lines are deasserted it is left to the range stage, which refuses it. -/
def Obligations.InterlockStageByLines : Prop :=
  ∀ (r : Request) (s : State),
    let live := fun (v : UnitId) (i : Fin 4) => ∃ w, windowAt v i s = some w ∧ w.live = true
    (interlockStage r s = some .interlock ↔
      match r with
      | .faultClear _ => s.filtered.move = true
      | .routine _ _ _ => s.filtered.move = true
      | .windowWrite v i _ _ => s.filtered.move = true ∨ (s.filtered.run = true ∧ ¬ live v i)
      | .mapWrite v j _ _ _ _ _ _ _ =>
        s.filtered.move = true ∨ (s.filtered.run = true ∧ ¬ ∃ m, mapAt v j s = some m ∧ live v m.window)
      | .modeClaim _ .flash _ => s.filtered.run = true ∨ s.filtered.move = true
      | .streamOpen _ _ _ _ _ _ => s.filtered.run = true ∨ s.filtered.move = true
      | _ => False) ∧
    (interlockStage r s = none ∨ interlockStage r s = some .interlock) ∧
    (∀ v i o data, windowAt v i s = none → rangeStage (.windowWrite v i o data) s = some .outOfWindow) ∧
    (∀ v j r0 c0 w1 h1 key mask cells, mapAt v j s = none →
      rangeStage (.mapWrite v j r0 c0 w1 h1 key mask cells) s = some .outOfMap)

/-- R32 to R35: the range stage of the window, map and stream kinds, and the law of R33: a MAP READ that passes is clipped
to a rectangle inside its map of at most 240 bytes, with CLAMPED where a value was trimmed, a cost of its height and one
row request for each row. R34: a MAP WRITE costs its runs, which are the maximal sequences of cells of one row that do not match
the skip key under the skip mask, in row-major order, each with its address, length and bytes. -/
def Obligations.RangeStageAndClipping : Prop :=
  ∀ (v : UnitId) (i : Fin 4) (s : State),
    (∀ o n, rangeStage (.windowRead v i o n) s =
      match windowAt v i s with
      | none => some .outOfWindow
      | some w =>
        if n = 0 ∨ 240 < n then some .badLength
        else if o + n ≤ w.length * granuleBytes w.granularity then none else some .outOfWindow) ∧
    (∀ o (data : List Byte), rangeStage (.windowWrite v i o data) s =
      match windowAt v i s with
      | none => some .outOfWindow
      | some w =>
        if data.length = 0 ∨ 232 < data.length then some .badLength
        else if o + data.length ≤ w.length * granuleBytes w.granularity then none else some .outOfWindow) ∧
    (∀ policy size a total, rangeStage (.streamOpen v i policy size a total) s =
      match windowAt v i s with
      | none => some .badArgument
      | some w =>
        if w.flashTarget = true ∧ 16 ≤ size ∧ size ≤ 240 ∧ total ≠ 0 ∧ a + total ≤ w.length * granuleBytes w.granularity
        then none else some .badArgument) ∧
    (∀ r0 c0 w1 h1 key mask (cells : List Byte), rangeStage (.mapWrite v i r0 c0 w1 h1 key mask cells) s =
      match mapAt v i s with
      | none => some .outOfMap
      | some m =>
        if m.rows ≤ r0 + h1 ∨ m.columns ≤ c0 + w1 then some .outOfMap
        else if cells.length = (w1 + 1) * (h1 + 1) * m.cell ∧ cells.length ≤ 224 then none else some .badLength) ∧
    (∀ r0 c0 w1 h1,
      (mapAt v i s = none → rangeStage (.mapRead v i r0 c0 w1 h1) s = some .outOfMap) ∧
      (∀ m, mapAt v i s = some m →
        (m.rows ≤ r0 ∨ m.columns ≤ c0 → rangeStage (.mapRead v i r0 c0 w1 h1) s = some .outOfMap) ∧
        (r0 < m.rows → c0 < m.columns →
          let p := planOf (.mapRead v i r0 c0 w1 h1) s
          rangeStage (.mapRead v i r0 c0 w1 h1) s = none ∧
          p.width = min (min (w1 + 1) (m.columns - c0)) (240 / m.cell) ∧
          p.height = min (min (h1 + 1) (m.rows - r0)) (240 / (p.width * m.cell)) ∧
          (p.clamped = true ↔ p.width < w1 + 1 ∨ p.height < h1 + 1) ∧
          p.cost = p.height ∧ p.rows.length = p.height ∧
          c0 + p.width ≤ m.columns ∧ r0 + p.height ≤ m.rows ∧ p.width * p.height * m.cell ≤ 240 ∧
          (m.cell = 1 ∨ m.cell = 2 ∨ m.cell = 4 → 1 ≤ p.width ∧ 1 ≤ p.height) ∧
          (∀ k (q : RowReq), p.rows[k]? = some q →
            q.addr = windowByte v m.window (m.offset + (r0 + k) * m.pitch + c0 * m.cell) s ∧
            q.len = p.width * m.cell)))) ∧
    (∀ r0 c0 w1 h1 (key mask : BitVec 32) (cells : List Byte) m, mapAt v i s = some m →
      m.cell = 1 ∨ m.cell = 2 ∨ m.cell = 4 →
      let p := planOf (.mapWrite v i r0 c0 w1 h1 key mask cells) s
      let cell := fun row column => (cells.drop ((row * (w1 + 1) + column) * m.cell)).take m.cell
      let kept := fun row column => row ≤ h1 ∧ column ≤ w1 ∧
        ∃ b, b < 8 * m.cell ∧ mask.getLsbD b = false ∧ (leNat (cell row column)).testBit b ≠ key.getLsbD b
      p.cost = p.rows.length ∧ p.clamped = false ∧ p.width = w1 + 1 ∧ p.height = h1 + 1 ∧
      (∀ row column, kept row column ∧ (∀ l, l + 1 = column → ¬ kept row l) ↔
        ∃ q ∈ p.rows, q.row = row ∧ q.column = column) ∧
      (∀ q ∈ p.rows,
        1 ≤ q.cells ∧ (∀ l, l < q.cells → kept q.row (q.column + l)) ∧ ¬ kept q.row (q.column + q.cells) ∧
        q.addr = windowByte v m.window (m.offset + (r0 + q.row) * m.pitch + (c0 + q.column) * m.cell) s ∧
        q.len = q.cells * m.cell ∧
        q.data = (cells.drop ((q.row * (w1 + 1) + q.column) * m.cell)).take (q.cells * m.cell)) ∧
      p.rows.Pairwise fun a b => a.row < b.row ∨ (a.row = b.row ∧ a.column < b.column))

/-- R22, R39, R40: a refused request, in whatever state its channel holds it, is answered with its status, CLAMPED clear and
no payload, or its reply is dropped from a full queue; its buffer is free again, the channel's state is that of its work, the
refusal is recorded for five statuses and reported, for the unit its unit byte names (MALFORMED: the model's choice, log 23),
in that order (log 16), and nothing else changes. R70 to R72, R79, R83: a message of a kind other than CHANNEL OPEN and
CHANNEL CLOSE is answered by the channel engine itself, taken and decided, or staged; an answer of its own occupies no buffer
and leaves E, and only SEQUENCE is reported. -/
def Obligations.RefusedRequestIsAnsweredOnly : Prop :=
  let offered := fun (r : Reply) (s : State) =>
    if (repliesAt (chanPort r.chan) s).length < 12 then pushReply r s
    else report ⟨.replyDropped, some (chanPort r.chan), none, none⟩ s
  let noted := fun (c : ChanId) (body : List Byte) (st : Status) (u : State) =>
    let v := bodyUnit body
    let told := fun e x => report ⟨e, some (chanPort c), v.bind fun w => unitBus w u, v⟩ x
    let recorded :=
      if st ∈ [.noGrant, .held, .interlock, .outOfWindow, .outOfMap] then
        writeRecord (some (chanPort c)) (some c) none v (.refusal st (body.headD 0)) u
      else u
    if st ∈ [.noGrant, .suspended, .budget] then told .refusedGrant (told .refused recorded)
    else if st = .interlock then told .refusedInterlock (told .refused recorded)
    else if st ∈ [.outOfWindow, .outOfMap] then told .refusedRange (told .refused recorded)
    else told .refused recorded
  (∀ (k : ReqKind) (m : ReqMsg) (st : Status) (s u : State), TakenAt s u → AtIdle m u → HasRoom (chanPort m.chan) u →
    k ∉ [.channelOpen, .channelClose, .block, .streamEnd, .streamAbort] →
    check m.chan (rowBody k m) u = .refused st →
    exec (requestRow k m) s = .next
      (setChan m.chan { chanAt m.chan u with expect := otherBuf m.buf }
        (pushReply (requestReply m.chan m.buf k st false []) (noted m.chan (rowBody k m) st u)))) ∧
  (∀ (c : ChanId) (b : Buf) (body : List Byte) (st : Status) (u : State), check c body u = .refused st →
    let ch := chanAt c u
    decideTaken c b body u =
      setChan c
        { freeBuffer b ch with
          state :=
            if ch.state = .closed ∨ ch.state = .halted then ch.state
            else if ch.binding ≠ none then .streaming
            else if ch.active ≠ none ∨ ch.staged ≠ none then .busy else .idle }
        (offered { chan := c, buf := b, kind := body.headD 0, status := st, clamped := false, payload := [] }
          (noted c body st u))) ∧
  (∀ (c : ChanId) (b : Buf) (body : List Byte) (u : State),
    let k := kindOf (body.headD 0)
    let ch := chanAt c u
    let answered := fun st =>
      offered { chan := c, buf := b, kind := body.headD 0, status := st, clamped := false, payload := [] } u
    let taken := { setBuffer b (some body) ch with expect := otherBuf b }
    let decided := decideTaken c b body (setChan c taken u)
    let working := ch.state = .idle ∨ ch.state = .busy ∨ ch.state = .streaming
    let passes := b = ch.expect ∧ bufferAt b ch = none
    let forStream := k ∈ [some .block, some .streamEnd, some .streamAbort]
    let serves := k ∈ [some .block, some .keep] ∨
      (k ∈ [some .streamEnd, some .streamAbort, some .modeRelease] ∧ ch.active = none)
    k ≠ some .channelOpen → k ≠ some .channelClose →
    (ch.state = .closed → deliver c b body u = answered .channelClosed) ∧
    (ch.state = .halted → deliver c b body u = answered .channelHalted) ∧
    (working → b ≠ ch.expect →
      deliver c b body u = report ⟨.sequence, some (chanPort c), none, none⟩ (answered .sequence)) ∧
    (working → b = ch.expect → bufferAt b ch ≠ none → deliver c b body u = answered .notReady) ∧
    (passes → ch.state = .idle ∨ ch.state = .busy → forStream → deliver c b body u = answered .wrongState) ∧
    (passes → ch.state = .idle → ¬ forStream → deliver c b body u = decided) ∧
    (passes → ch.state = .busy → ¬ forStream → ch.staged = none →
      deliver c b body u = setChan c { taken with staged := some b } u) ∧
    (passes → ch.state = .streaming → serves → deliver c b body u = decided) ∧
    (passes → ch.state = .streaming → ¬ serves → deliver c b body u = answered .wrongState)) ∧
  (∀ (k : ReqKind) (m : ReqMsg) (s u : State), TakenAt s u →
    exec (requestRow k m) s = .next (deliver m.chan m.buf (rowBody k m) u))

/-! ### The request rows -/

/-- R37, R38, R50, R51, R74: an admitted ITEM READ, FAULT READ, FAULT CLEAR, ROUTINE, WINDOW READ or WINDOW WRITE at an IDLE
channel costs 1, is recorded and reported, restarts its holder's claim timer, is placed on its unit with its message, and
pends; nothing else changes. -/
def Obligations.SingleRequestsArePlaced : Prop :=
  ∀ (m : ReqMsg) (r : Request) (v : UnitId) (msg : UnitMsg) (g : Slot) (s u : State),
    TakenAt s u → AtIdle m u → Spells m r → singleMessage r u = some (v, msg) →
    refusalOf m.chan r u = none → selectGrant m.chan r u = some g →
    exec (requestRow r.kind m) s = .next
      (setChan m.chan (pendingChannel r.kind m false (.unit v) .busy u)
        (placeEntry v
          { source := .channel m.chan, msg := msg, grant := some g, window := requestWindow r, keep := 0 }
          (heldTimerRestarted m.chan v (noteAdmission m.chan r (some g) 1 u))))

/-- R77: CHANNEL OPEN opens a CLOSED, drained channel of a port that an ACTIVE grant serves, whatever its buffer bit; it is
answered NOT_READY while the channel has not drained, WRONG_STATE at an open channel and CHANNEL_HALTED at a HALTED one. -/
def Obligations.ChannelOpenOpens : Prop :=
  ∀ (m : ReqMsg) (s u : State), TakenAt s u → HasRoom (chanPort m.chan) u →
    let answered := fun st => pushReply (requestReply m.chan m.buf .channelOpen st false [])
    let ch := chanAt m.chan u
    (ch.state = .closed → ch.active = none → ch.binding = none → Spells m .channelOpen →
      u.monitor.freeze = none ∨ chanPort m.chan = .svp →
      (∃ i, (grantAt i u).state = .active ∧ (grantAt i u).requester = chanPort m.chan) →
      exec (.channelOpen m) s = .next
        (setChan m.chan { Channel.initial with state := .idle }
          (answered .done (report ⟨.admitted, some (chanPort m.chan), none, none⟩ u)))) ∧
    (ch.state = .closed → ch.active ≠ none ∨ ch.binding ≠ none → exec (.channelOpen m) s = .next (answered .notReady u)) ∧
    (ch.state = .idle ∨ ch.state = .busy ∨ ch.state = .streaming →
      exec (.channelOpen m) s = .next (answered .wrongState u)) ∧
    (ch.state = .halted → exec (.channelOpen m) s = .next (answered .channelHalted u))

/-- R78, R98, R112, R63: CHANNEL CLOSE of an open or HALTED channel, whatever its buffer bit: the channel is CLOSED with
nothing staged, its streams are CONCLUDED, no map job of it is left, every claim it held is left, work only ends, and DONE is
offered to the port; a CLOSED channel is answered CHANNEL_CLOSED. -/
def Obligations.ChannelCloseCloses : Prop :=
  ∀ (m : ReqMsg) (s u : State), TakenAt s u →
    ((chanAt m.chan u).state ≠ .closed → Spells m .channelClose →
      ∃ v, exec (.channelClose m) s = .next (offerReply (requestReply m.chan m.buf .channelClose .done false []) true v) ∧
        Winds u v ∧
        (chanAt m.chan v).state = .closed ∧ (chanAt m.chan v).staged = none ∧
        (chanAt m.chan v).haltCause = none ∧ (chanAt m.chan v).clearPending = false ∧
        (∀ k x, streamAt k v = some x → x.chan = m.chan → x.state = .concluded) ∧
        (∀ j ∈ jobsOf v.map, j.chan ≠ m.chan) ∧
        (∀ w, canLeave (unitAt w v).claim = true → (unitAt w v).claim.holder ≠ some m.chan)) ∧
    ((chanAt m.chan u).state = .closed → HasRoom (chanPort m.chan) u →
      exec (.channelClose m) s = .next (pushReply (requestReply m.chan m.buf .channelClose .channelClosed false []) u))

/-- R101, R102: an admitted MAP READ, or MAP WRITE with runs, becomes a job with its plan, in the active place if that is
empty and else at the queue's tail, and pends; a MAP WRITE without runs is answered DONE with a run count of 0. -/
def Obligations.MapRequestsBecomeJobs : Prop :=
  ∀ (m : ReqMsg) (r : Request) (v : UnitId) (j : Fin 4) (d : MapDef) (r0 c0 : Nat) (kind : JobKind) (g : Slot) (s u : State),
    TakenAt s u → AtIdle m u → Spells m r → refusalOf m.chan r u = none → selectGrant m.chan r u = some g →
    mapAt v j u = some d →
    ((∃ w1 h1, r = .mapRead v j r0 c0 w1 h1 ∧ kind = .read) ∨
      (∃ w1 h1 key mask cells, r = .mapWrite v j r0 c0 w1 h1 key mask cells ∧ kind = .write)) →
    let p := planOf r u
    let job : Job := {
      kind := kind, chan := m.chan, unit := v, map := j, window := d.window, grant := g, r0 := r0, c0 := c0,
      width := p.width, height := p.height, plan := p.rows, done := 0, assembly := [], issuing := false }
    let noted := heldTimerRestarted m.chan v (noteAdmission m.chan r (some g) p.cost u)
    let pending := setChan m.chan (pendingChannel r.kind m p.clamped .map .busy u)
    (kind = .read ∨ p.cost ≠ 0 →
      (u.map.active = none → u.map.queue = [] →
        exec (requestRow r.kind m) s = .next (pending (setMap { u.map with active := some job } noted))) ∧
      (u.map.active ≠ none →
        exec (requestRow r.kind m) s = .next (pending (setMap { u.map with queue := u.map.queue ++ [job] } noted)))) ∧
    (kind = .write → p.cost = 0 → HasRoom (chanPort m.chan) u →
      exec (requestRow r.kind m) s = .next
        (setChan m.chan (answeredChannel m u) (pushReply (requestReply m.chan m.buf .mapWrite .done false [0]) noted)))

/-- R55 to R57: an admitted MODE CLAIM takes a FREE claim ENTERING, repeats the holder's mode with its keep period, or
changes the holder's mode; a MODE ENTER is placed where one is to be sent, and CLAMPED follows the count. -/
def Obligations.ModeClaimTakesRepeatsOrChanges : Prop :=
  ∀ (m : ReqMsg) (v : UnitId) (mode : Mode) (count : Nat) (g : Slot) (s u : State),
    TakenAt s u → AtIdle m u → Spells m (.modeClaim v mode count) →
    refusalOf m.chan (.modeClaim v mode count) u = none → selectGrant m.chan (.modeClaim v mode count) u = some g →
    let cl := (unitAt v u).claim
    let keep := if count = 0 then 2000 else if count ≤ 50 then 100 * count else 5000
    let clamped := decide (50 < count)
    let held := if cl.state = .attended then some Mode.attended else if cl.state = .flash then some Mode.flash else none
    let noted := noteAdmission m.chan (.modeClaim v mode count) (some g) 1 u
    let enter : Entry := {
      source := .channel m.chan, msg := .modeEnter mode, grant := some g, window := none, keep := keep }
    let pending := setChan m.chan (pendingChannel .modeClaim m clamped (.modeClaim v) .busy u)
    (cl.state = .free →
      exec (.modeClaim m) s = .next (pending (placeEntry v enter (setUnit v { unitAt v u with
        claim := {
          state := .entering, holder := some m.chan, grant := some g, target := some mode, prior := none, left := none,
          keep := keep, reason := none, releasePending := false } } noted)))) ∧
    (held = some mode → HasRoom (chanPort m.chan) u →
      exec (.modeClaim m) s = .next
        (setChan m.chan (answeredChannel m u) (pushReply (requestReply m.chan m.buf .modeClaim .done clamped [])
          (setUnit v { unitAt v u with claim := { cl with grant := some g, keep := keep }, claimTimer := some keep } noted)))) ∧
    (cl.state = .attended ∨ cl.state = .flash → held ≠ some mode →
      exec (.modeClaim m) s = .next (pending (placeEntry v enter (setUnit v { unitAt v u with
        claim := { cl with state := .entering, target := some mode, prior := held, grant := some g },
        claimTimer := none } noted))))

/-- R59: an admitted KEEP restarts the claim timer with the claim's keep period and is answered DONE; no unit message is
sent and no other field of the claim changes. It is admitted whatever the freeze and the grants hold, on an ACTIVE bus, from
the holder in ATTENDED or FLASH; on a bus OFF or ASLEEP it is refused at the bus stage. -/
def Obligations.KeepRestartsTheClaimTimer : Prop :=
  ∀ (m : ReqMsg) (v : UnitId) (d : UnitDef) (s u : State), Spells m (.keep v) → (unitAt v u).defn = some d →
    (∀ k, (busAt d.bus u).state = .active → (unitAt v u).claim.holder = some m.chan →
      (unitAt v u).claim.state = .attended ∨ (unitAt v u).claim.state = .flash →
      check m.chan (rowBody .keep m) u = .admitted (.keep v) none (Plan.flat 0) ∧
      handOff m.chan (.keep v) none (Plan.flat 0) u =
        (setUnit v { unitAt v u with claimTimer := some (unitAt v u).claim.keep } u, .answered .done [] false) ∧
      (TakenAt s u → AtIdle m u ∨ AtStream m k u → HasRoom (chanPort m.chan) u →
        exec (.keep m) s = .next
          (setChan m.chan (answeredChannel m u) (pushReply (requestReply m.chan m.buf .keep .done false [])
            (setUnit v { unitAt v u with claimTimer := some (unitAt v u).claim.keep }
              (report ⟨.admitted, some (chanPort m.chan), some d.bus, some v⟩ u)))))) ∧
    ((busAt d.bus u).state = .off → check m.chan (rowBody .keep m) u = .refused .busFault) ∧
    ((busAt d.bus u).state = .asleep → check m.chan (rowBody .keep m) u = .refused .unitAsleep)

/-- R61, R62, R64: an admitted MODE RELEASE puts the holder's claim LEAVING with reason RELEASED and release pending, stops
its timer, places the base request, ends the former holder's waiting work, jobs and streams on the unit, and pends; work
only ends. -/
def Obligations.ModeReleaseLeaves : Prop :=
  ∀ (m : ReqMsg) (v : UnitId) (s u : State), TakenAt s u → AtIdle m u → Spells m (.modeRelease v) →
    refusalOf m.chan (.modeRelease v) u = none → (unitAt v u).out.isSome = true ∨ (unitAt v u).wait = [] →
    let cl := (unitAt v u).claim
    ∃ t w, exec (.modeRelease m) s = .next t ∧
      Winds (noteAdmission m.chan (.modeRelease v) none 0 (setChan m.chan (takeMessage m.buf (rowBody .modeRelease m)
        (chanAt m.chan u)) u)) w ∧
      (∃ x, t = setChan m.chan x w ∧
        x.active = some { buf := m.buf, kind := .modeRelease, clamped := false, place := .modeRelease v }) ∧
      (unitAt v t).claim = { cl with
        state := .leaving, reason := some .released, target := none, prior := none, releasePending := true,
        left := some (if cl.state = .flash then .flash else .attended) } ∧
      (unitAt v t).claimTimer = none ∧
      ((unitAt v u).out = none → (unitAt v t).out = some baseEntry) ∧
      ((unitAt v u).out ≠ none → (unitAt v t).out = (unitAt v u).out ∧ (unitAt v t).wait.head? = some baseEntry) ∧
      (∀ e ∈ (unitAt v t).wait, needsClaimOf m.chan e = false) ∧
      (∀ j ∈ jobsOf t.map, ¬ (j.kind = .write ∧ j.chan = m.chan ∧ j.unit = v)) ∧
      (∀ k x, streamAt k t = some x → x.chan = m.chan → x.unit = v → x.state = .concluded)

/-- R87, R73: an admitted STREAM OPEN binds the lowest-numbered free context, FILLING with all counts 0 and its idle timer at
3,000 ms; its channel is STREAMING, and it is answered DONE with the accepted count 0 and the context number. -/
def Obligations.StreamOpenBindsAContext : Prop :=
  ∀ (m : ReqMsg) (v : UnitId) (i : Fin 4) (policy : GapPolicy) (size start total : Nat) (g : Slot) (k : CtxId) (s u : State),
    let r : Request := .streamOpen v i policy size start total
    TakenAt s u → AtIdle m u → HasRoom (chanPort m.chan) u → Spells m r → refusalOf m.chan r u = none →
    selectGrant m.chan r u = some g →
    streamAt k u = none → (∀ l, l < k → streamAt l u ≠ none) →
    exec (.streamOpen m) s = .next
      (setChan m.chan { answeredChannel m u with state := .streaming, binding := some k }
        (pushReply (requestReply m.chan m.buf .streamOpen .done false [0, 0, 0, 0, BitVec.ofNat 8 k.val])
          (setStream k (some {
            chan := m.chan, unit := v, window := i, start := start, total := total, size := size, policy := policy,
            grant := g, state := .filling, concluded := none, accepted := 0, issued := 0, confirmed := 0, slotA := none,
            slotB := [], idle := some 3000, release := false, endPending := none })
            (heldTimerRestarted m.chan v (noteAdmission m.chan r (some g) ((total + size - 1) / size) u)))))

/-- R88 to R90, R72, R82: a BLOCK at a STREAMING channel: OVERRUN halts the channel; without room it is NOT_READY and the
buffer mark is set back; otherwise its bytes are appended, and a slot B that is then full, or ends the image, moves to a free
slot A and is placed on the unit as a MEMORY STORE with the program mark, the bytes past a full slot staying in slot B. A
context not FILLING takes no bytes. Every answer carries the accepted count, or the confirmed count of a CONCLUDED context. -/
def Obligations.BlockIsTakenByTheStream : Prop :=
  ∀ (m : ReqMsg) (data : List Byte) (k : CtxId) (x : Stream) (s u : State),
    TakenAt s u → AtStream m k u → HasRoom (chanPort m.chan) u → Spells m (.block data) →
    u.monitor.freeze = none ∨ chanPort m.chan = .svp → streamAt k u = some x →
    let noted := report ⟨.admitted, some (chanPort m.chan), none, none⟩ u
    let answered := fun st (n : Nat) w => setChan m.chan (answeredChannel m u)
      (pushReply (requestReply m.chan m.buf .block st false (leBytes 4 n)) w)
    let y := { x with idle := some 3000 }
    let grown := { y with accepted := x.accepted + data.length, slotB := x.slotB ++ data }
    let room := if x.slotA.isSome then x.size - x.slotB.length else 2 * x.size - x.slotB.length
    (x.state = .filling → x.total < x.accepted + data.length →
      exec (.block m) s = .next
        (setChan m.chan { answeredChannel m u with state := .halted, haltCause := some .overrun, clearPending := false }
          (pushReply (requestReply m.chan m.buf .block .overrun false (leBytes 4 x.accepted))
            (setStream k (some y) noted)))) ∧
    (x.state = .filling → x.accepted + data.length ≤ x.total → room < data.length →
      exec (.block m) s = .next
        (setChan m.chan (chanAt m.chan u) (pushReply
          (requestReply m.chan m.buf .block .notReady false (leBytes 4 x.accepted)) (setStream k (some y) noted)))) ∧
    (x.state = .filling → x.accepted + data.length ≤ x.total → data.length ≤ room →
      (x.slotA.isSome = true ∨ (x.slotB.length + data.length < x.size ∧ x.accepted + data.length < x.total) →
        exec (.block m) s = .next (answered .done (x.accepted + data.length) (setStream k (some grown) noted))) ∧
      (x.slotA = none → x.slotB.length + data.length ≤ x.size → x.slotB ++ data ≠ [] →
        x.slotB.length + data.length = x.size ∨ x.accepted + data.length = x.total →
        exec (.block m) s = .next (answered .done (x.accepted + data.length)
          (restartClaimTimer x.unit (placeEntry x.unit
            { source := .stream k x.chan,
              msg := .memoryStore (windowByte x.unit x.window (x.start + x.issued) u) (x.slotB ++ data) true,
              grant := some x.grant, window := some x.window, keep := 0 }
            (setStream k (some { grown with
              slotA := some ⟨x.issued, x.slotB ++ data⟩, issued := x.issued + (x.slotB.length + data.length),
              slotB := [] }) noted))))) ∧
      (x.slotA = none → x.size < x.slotB.length + data.length →
        exec (.block m) s = .next (answered .done (x.accepted + data.length)
          (restartClaimTimer x.unit (placeEntry x.unit
            { source := .stream k x.chan,
              msg := .memoryStore (windowByte x.unit x.window (x.start + x.issued) u) ((x.slotB ++ data).take x.size) true,
              grant := some x.grant, window := some x.window, keep := 0 }
            (setStream k (some { grown with
              slotA := some ⟨x.issued, (x.slotB ++ data).take x.size⟩, issued := x.issued + x.size,
              slotB := (x.slotB ++ data).drop x.size }) noted))))) ∧
      (∃ t z, exec (.block m) s = .next (answered .done (x.accepted + data.length) t) ∧ streamAt k t = some z ∧
        z.accepted = x.accepted + data.length ∧ z.idle = some 3000 ∧ z.state = .filling ∧ z.confirmed = x.confirmed)) ∧
    (x.state = .draining → exec (.block m) s = .next (answered .wrongState x.accepted noted)) ∧
    (∀ how, x.state = .concluded → x.concluded = some how →
      exec (.block m) s = .next (answered
        (match how with
          | .failed => .streamFailed
          | .aborted => .streamAborted
          | .withdrawn => .withdrawn)
        x.confirmed (setStream k (some { x with release := true }) noted)))

/-- R93, R94: STREAM END ends an empty FILLING stream at once (DONE when confirmed equals T, else SHORT), and otherwise
drains it and pends; STREAM ABORT discards slot B, concludes the stream STREAM_ABORTED and is answered at once when slot A is
free, and otherwise pends; a CONCLUDED context answers either with its status, or pends until slot A is free. -/
def Obligations.StreamEndAndAbort : Prop :=
  ∀ (m : ReqMsg) (k : CtxId) (x : Stream) (s u : State),
    TakenAt s u → AtStream m k u → (chanAt m.chan u).active = none → HasRoom (chanPort m.chan) u → streamAt k u = some x →
    let noted := report ⟨.admitted, some (chanPort m.chan), none, none⟩ u
    let counts := leBytes 4 x.confirmed ++ leBytes 4 x.total
    let answered := fun kind st payload y => setChan m.chan (answeredChannel m u)
      (pushReply (requestReply m.chan m.buf kind st false payload) (setStream k (some y) noted))
    let pends := fun kind => setChan m.chan (pendingChannel kind m false (.stream k) .streaming u)
    let status := fun how => match how with
      | .failed => Status.streamFailed
      | .aborted => Status.streamAborted
      | .withdrawn => Status.withdrawn
    (Spells m .streamEnd → x.state = .filling → x.concluded = none → x.slotA = none → x.slotB = [] →
      exec (.streamEnd m) s = .next (answered .streamEnd (if x.confirmed = x.total then .done else .short) counts
        { x with release := true, idle := none })) ∧
    (Spells m .streamEnd → x.state = .filling → x.slotA ≠ none →
      exec (.streamEnd m) s = .next (pends .streamEnd
        (setStream k (some { x with state := .draining, idle := none, endPending := some .streamEnd }) noted))) ∧
    (Spells m .streamEnd → x.state = .filling → x.slotA = none → x.slotB ≠ [] →
      exec (.streamEnd m) s = .next (pends .streamEnd
        (restartClaimTimer x.unit (placeEntry x.unit
          { source := .stream k x.chan,
            msg := .memoryStore (windowByte x.unit x.window (x.start + x.issued) u) x.slotB true,
            grant := some x.grant, window := some x.window, keep := 0 }
          (setStream k (some { x with
            state := .draining, idle := none, endPending := some .streamEnd, slotA := some ⟨x.issued, x.slotB⟩,
            issued := x.issued + x.slotB.length, slotB := [] }) noted))))) ∧
    (∀ how, Spells m .streamEnd → x.state = .concluded → x.concluded = some how →
      (x.slotA = none →
        exec (.streamEnd m) s = .next (answered .streamEnd (status how) counts { x with release := true })) ∧
      (x.slotA ≠ none →
        exec (.streamEnd m) s = .next (pends .streamEnd
          (setStream k (some { x with endPending := some .streamEnd }) noted)))) ∧
    (Spells m .streamAbort → x.state = .filling →
      (x.slotA = none →
        exec (.streamAbort m) s = .next (answered .streamAbort .streamAborted (leBytes 4 x.confirmed)
          { x with state := .concluded, concluded := some .aborted, slotB := [], idle := none, release := true })) ∧
      (x.slotA ≠ none →
        exec (.streamAbort m) s = .next (pends .streamAbort (setStream k (some { x with
          state := .concluded, concluded := some .aborted, slotB := [], idle := none,
          endPending := some .streamAbort }) noted)))) ∧
    (∀ how, Spells m .streamAbort → x.state = .concluded → x.concluded = some how →
      (x.slotA = none →
        exec (.streamAbort m) s = .next (answered .streamAbort (status how) (leBytes 4 x.confirmed)
          { x with release := true })) ∧
      (x.slotA ≠ none →
        exec (.streamAbort m) s = .next (pends .streamAbort
          (setStream k (some { x with endPending := some .streamAbort }) noted))))

/-! ### The ports -/

/-- R154 to R156: a frame on the request identifier that is a valid segment brings the link UP, which activates ARMED grants,
or restarts its timer, and is taken by its channel's reassembly: it is added, delivers the body, or faults, and a fault is
answered MALFORMED. Other frames change nothing; a frame of fewer than 2 bytes, and a segment shorter than R156 has it, are
met as log 15 says. The gap timer's expiry discards the message and answers MALFORMED; a gap timer that does not run leaves
the state as it is (the model's choice, log 5). -/
def Obligations.SegmentsAreReassembled : Prop :=
  (∀ (id : CanId) (frame : List Byte) (s u : State), TakenAt s u →
    (id ≠ u.spt.reqId ∨ frame.length < 2 → exec (.validSegment id frame) s = .next u) ∧
    (∀ h l data, id = u.spt.reqId → frame = h :: l :: data →
      let first := h.getLsbD 7
      let last := h.getLsbD 6
      let index := h.toNat / 16 % 4
      let i : Fin 4 := Fin.ofNat 4 (h.toNat / 4)
      let b := if h.getLsbD 1 then Buf.y else Buf.x
      let bytes := data.take 62
      let valid := (first = true ∧ 1 ≤ l.toNat ∧ l.toNat ≤ 244) ∨ (first = false ∧ l = 0)
      let up : State :=
        if u.spt.link then { u with spt := { u.spt with linkTimer := some 2000 } }
        else { u with
          spt := { u.spt with link := true, linkTimer := some 2000 }
          grants := Vector.ofFn fun g =>
            if (grantAt g u).state = .armed then { grantAt g u with state := .active } else grantAt g u }
      let put := fun r => { up with spt := { up.spt with reasm := up.spt.reasm.set i.val r } }
      let faulted := offerReply (malformedReply (chanOf .spt i) b) false (put none)
      let held : Option SptReasm :=
        if first then some { buf := b, length := l.toNat, bytes := [], next := 0, gap := 1000 } else u.spt.reasm.get i
      (¬ valid → exec (.validSegment id frame) s = .next u) ∧
      (valid → held = none → exec (.validSegment id frame) s = .next faulted) ∧
      (∀ x, valid → held = some x →
        let rest := x.length - x.bytes.length
        (index ≠ x.next ∨ b ≠ x.buf → exec (.validSegment id frame) s = .next faulted) ∧
        (index = x.next → b = x.buf → last = true →
          (bytes.length < rest → exec (.validSegment id frame) s = .next faulted) ∧
          (rest ≤ bytes.length → exec (.validSegment id frame) s = .next
            (deliver (chanOf .spt i) b (x.bytes ++ bytes.take rest) (put none)))) ∧
        (index = x.next → b = x.buf → last = false →
          (rest ≤ bytes.length ∨ (bytes.length < 62 ∧ 62 < rest) →
            exec (.validSegment id frame) s = .next faulted) ∧
          (bytes.length < rest → bytes.length = 62 ∨ rest ≤ 62 →
            exec (.validSegment id frame) s = .next
              (put (some { x with bytes := x.bytes ++ bytes, next := x.next + 1, gap := 1000 }))))))) ∧
  (∀ (i : Fin 4) (s u : State), TakenAt s u →
    (u.spt.reasm.get i = none → exec (.gapTimerExpiry i) s = .next u) ∧
    (∀ x, u.spt.reasm.get i = some x →
      exec (.gapTimerExpiry i) s = .next
        (offerReply (malformedReply (chanOf .spt i) x.buf) false
          { u with spt := { u.spt with reasm := u.spt.reasm.set i.val none } })))

/-- R157, R7, R80: the link timer's expiry, whatever the order of its consequences (log 4; the reply queue, log 19): the link
is DOWN with nothing in reassembly or transmission and an empty reply queue; SERVICE grants with lapse on disconnect that are
not ARMED are VACANT, the others as before, and nothing runs under those; SPT.0 to SPT.3 are CLOSED; no identifier, line or
bus state changes. A link timer that does not run leaves the state as it is (the model's choice, log 5). What each lapsed
grant records is not said here. -/
def Obligations.LinkDownEndsTheSession : Prop :=
  ∀ (race : List Nat) (s u : State), TakenAt s u →
    (u.spt.linkTimer = none → exec (.linkTimerExpiry race) s = .next u) ∧
    (u.spt.linkTimer ≠ none → ∃ v, exec (.linkTimerExpiry race) s = .next v ∧
      v.spt = { u.spt with link := false, linkTimer := none, reasm := Vector.replicate 4 none, sending := none } ∧
      repliesAt .spt v = [] ∧
      (∀ g,
        let x := grantAt g u
        let lapsed := x.requester = .spt ∧ x.lapse = true ∧ x.state ∈ [.active, .suspended, .spent]
        (lapsed → grantAt g v = Grant.vacant ∧ NothingUnder g v) ∧ (¬ lapsed → grantAt g v = x)) ∧
      (∀ i, (chanAt (chanOf .spt i) v).state = .closed) ∧
      v.filtered = u.filtered ∧ v.raw = u.raw ∧ (∀ b, (busAt b v).state = (busAt b u).state) ∧
      (∀ w, (unitAt w v).defn = (unitAt w u).defn))

/-- R161, R165: SPT takes its queue's head when nothing is in transmission and sends its segments one after another; a frame
that fails stays on the wire; after the last segment the reply leaves the queue; a frame whose reply was dropped is only taken
off the wire, and no reply is begun until it is (log 13). An idle wire, or nothing to send, leaves the state as it is (the
model's choice, log 5). A body of up to 62 bytes goes in one frame. -/
def Obligations.ServiceRepliesAreSent : Prop :=
  ∀ (s u : State), TakenAt s u →
    let frame := fun (r : Reply) n =>
      segmentFrame u.spt.repId (chanIdx r.chan).val r.buf
        (r.kind :: statusCode r.status :: (if r.clamped then 1 else 0) :: r.payload) n
    let segments := fun r : Reply => (3 + r.payload.length + 61) / 62
    let sending := fun n f => { u with spt := { u.spt with sending := n, wire := f } }
    (∀ r rest, u.replies.spt = r :: rest →
      (u.spt.sending = none → u.spt.wire = none →
        exec .sptReplyTransmit s = .next (sending (some 0) (some (frame r 0)))) ∧
      (∀ n f, u.spt.sending = some n → u.spt.wire = some f →
        exec (.sptReplyFrameDone false) s = .next u ∧
        (n + 1 < segments r →
          exec (.sptReplyFrameDone true) s = .next (sending (some (n + 1)) (some (frame r (n + 1))))) ∧
        (segments r ≤ n + 1 →
          exec (.sptReplyFrameDone true) s = .next { sending none none with replies := { u.replies with spt := rest } }))) ∧
    (u.replies.spt = [] ∨ u.spt.sending ≠ none ∨ u.spt.wire ≠ none → exec .sptReplyTransmit s = .next u) ∧
    (u.spt.wire = none → ∀ sent, exec (.sptReplyFrameDone sent) s = .next u) ∧
    (u.spt.sending = none → ∀ sent, exec (.sptReplyFrameDone sent) s = .next (sending none none)) ∧
    (∀ r : Reply, r.payload.length ≤ 59 → frame r 0 =
      { id := u.spt.repId
        bytes := padFrame
          (BitVec.ofNat 8 (192 + 4 * (chanIdx r.chan).val + 2 * (if r.buf = .y then 1 else 0)) ::
            BitVec.ofNat 8 (3 + r.payload.length) ::
            r.kind :: statusCode r.status :: (if r.clamped then 1 else 0) :: r.payload) })

/-- R159, R162: a WRITE MESSAGE delivers its body to the channel its envelope names, as the request row of its kind does, or,
with the control mark at SVP, as the supervisor command it spells; a faulty one is answered MALFORMED. The part drives 00h
throughout. A transaction released before its envelope is answered nothing, and one released before its length byte MALFORMED (the
model's choice, log 20). A first byte A2h or A3h makes the transaction a READ REPLY or a READ STATUS (log 21). -/
def Obligations.WriteMessageDelivers : Prop :=
  (∀ (p : SpiPort) (envelope length : Byte) (bytes : List Byte) (race : List Nat) (s u : State), TakenAt s u →
    let quiet := List.replicate (2 + bytes.length) 0
    let w := { u with miso := (match p with
      | .rpt => { u.miso with rpt := quiet }
      | .svp => { u.miso with svp := quiet }) }
    let i : Fin 4 := Fin.ofNat 4 envelope.toNat
    let b := if envelope.getLsbD 2 then Buf.y else Buf.x
    let control := envelope.getLsbD 7
    let body := bytes.take length.toNat
    let written := exec (.writeMessage p (0xA1#8 :: envelope :: length :: bytes) race) s
    let faulty := length = 0 ∨ 244 < length.toNat ∨ bytes.length < length.toNat ∨ (control = true ∧ p = .rpt)
    (faulty → written = .next (offerReply (malformedReply (chanOf (spiPort p) i) b) false w)) ∧
    (¬ faulty → control = false → written = .next (deliver (chanOf (spiPort p) i) b body w)) ∧
    (¬ faulty → control = true → ∀ code args, body = code :: args →
      (∀ q, parseCommand code args = some q → written = .next (runCommand ⟨i, b⟩ q race w)) ∧
      (parseCommand code args = none → written = .next (answerCommand ⟨i, b⟩ code .malformed [] w)))) ∧
  (∀ (p : SpiPort) (envelope : Byte) (race : List Nat) (s u : State), TakenAt s u →
    let driven := fun bytes => { u with miso := (match p with
      | .rpt => { u.miso with rpt := bytes }
      | .svp => { u.miso with svp := bytes }) }
    exec (.writeMessage p [0xA1#8] race) s = .next (driven []) ∧
    exec (.writeMessage p [0xA1#8, envelope] race) s = .next (offerReply
      (malformedReply (chanOf (spiPort p) (Fin.ofNat 4 envelope.toNat)) (if envelope.getLsbD 2 then .y else .x)) false
      (driven [0]))) ∧
  (∀ (k : ReqKind) (m : ReqMsg) (s u : State), TakenAt s u →
    exec (requestRow k m) s = .next (deliver m.chan m.buf (kindCode k :: m.unit :: m.len :: m.reserved :: m.fields) u)) ∧
  (∀ (env : Envelope) (race : List Nat) (q : Command) (c : Instr) (s u : State), TakenAt s u →
    commandRow env race q = some c → exec c s = .next (runCommand env q race u)) ∧
  (∀ (p : SpiPort) (rest : List Byte) (race : List Nat) (s : State),
    exec (.writeMessage p (0xA2#8 :: rest) race) s = exec (.readReply p rest.length) s ∧
    exec (.writeMessage p (0xA3#8 :: rest) race) s = exec (.readStatus p rest.length) s)

/-- R160, 11.3, 11.4: READ REPLY drives the oldest reply, with its length before it, and removes it when its last byte has
been clocked out; READ STATUS drives the queue depth, the channels' states and marks, and on SVP freeze and ALERT, and changes
nothing else. RRDY and VRDY follow the queues. Bit 7 of the envelope byte is 0 for a command's reply too (the model's choice,
log 35). -/
def Obligations.SpiReadsDriveRepliesAndStatus : Prop :=
  (∀ (p : SpiPort) (n : Nat) (s u : State), TakenAt s u →
    let driven := fun bytes x => { x with miso := (match p with
      | .rpt => { x.miso with rpt := List.take n bytes }
      | .svp => { x.miso with svp := List.take n bytes }) }
    (repliesAt (spiPort p) u = [] → exec (.readReply p n) s = .next (driven [0, 0] u)) ∧
    (∀ r rest, repliesAt (spiPort p) u = r :: rest →
      let bytes := leBytes 2 (4 + r.payload.length) ++
        BitVec.ofNat 8 ((chanIdx r.chan).val + (if r.buf = .y then 4 else 0)) ::
          r.kind :: statusCode r.status :: (if r.clamped then 1 else 0) :: r.payload
      (n < 6 + r.payload.length → exec (.readReply p n) s = .next (driven bytes u)) ∧
      (6 + r.payload.length ≤ n → exec (.readReply p n) s = .next (setReplies (spiPort p) rest (driven bytes u)))) ∧
    (let channel := fun i : Fin 4 =>
      let ch := chanAt (chanOf (spiPort p) i) u
      BitVec.ofNat 8 ((match ch.state with
        | .closed => 0
        | .idle => 1
        | .busy => 2
        | .streaming => 3
        | .halted => 4) + (if ch.expect = .y then 8 else 0))
    let depth := BitVec.ofNat 8 (repliesAt (spiPort p) u).length
    exec (.readStatus p n) s = .next (driven
      (match p with
        | .rpt => [depth, channel 0, channel 1, channel 2, channel 3]
        | .svp => [depth, channel 0, channel 1, channel 2, channel 3,
            BitVec.ofNat 8 ((if u.monitor.freeze = none then 0 else 1) + (if u.alert = true then 2 else 0))]) u))) ∧
  (∀ s : State, s.inReset = false →
    (s.rrdy = true ↔ repliesAt .rpt s ≠ []) ∧ (s.vrdy = true ↔ repliesAt .svp s ≠ []))

/-! ### The unit buses and the completion of entries -/

/-- R120, R121, R124, R128: an ACTIVE bus with nothing in transmission begins the entry of the lowest class, then the oldest,
then the lowest unit number, and reports UNIT_MESSAGES; a frame that is sent lowers the error count and is followed by the
next segment, or the message leaves the queue and a request message awaits its reply with the unit's timeout. The frame of a
message that was dropped only leaves the wire, and no message is begun until it has (log 13); FRAME_SENT on an idle wire
leaves the state as it is (the model's choice, log 5). -/
def Obligations.MessagesAreBegunAndSent : Prop :=
  ∀ (b : BusId) (s u : State), TakenAt s u →
    let bus := busAt b u
    let frame := fun (q : QEntry) n => segmentFrame q.reqId 0 .x (unitMsgBody q.tag q.msg) n
    let segments := fun q : QEntry => ((unitMsgBody q.tag q.msg).length + 61) / 62
    (bus.state ≠ .active ∨ bus.tx ≠ none ∨ bus.wire ≠ none ∨ bus.queue = [] → exec (.messageBegin b) s = .next u) ∧
    (bus.state = .active → bus.tx = none → bus.wire = none → bus.queue ≠ [] → ∃ q, q ∈ bus.queue ∧
      (∀ p ∈ bus.queue, q.cls < p.cls ∨
        (q.cls = p.cls ∧ (q.entered < p.entered ∨ (q.entered = p.entered ∧ q.unit ≤ p.unit)))) ∧
      exec (.messageBegin b) s = .next
        (report ⟨.unitMessages, q.source.bind sourcePort, some b, some q.unit⟩
          (setBus b { bus with tx := some ⟨q, 0⟩, wire := some (frame q 0) } u))) ∧
    (bus.wire = none → exec (.frameSent b) s = .next u) ∧
    (bus.wire ≠ none → bus.tx = none →
      exec (.frameSent b) s = .next (setBus b { bus with errors := bus.errors - 1, wire := none } u)) ∧
    (∀ q n, bus.wire ≠ none → bus.tx = some ⟨q, n⟩ →
      (n + 1 < segments q →
        exec (.frameSent b) s = .next (setBus b
          { bus with errors := bus.errors - 1, tx := some ⟨q, n + 1⟩, wire := some (frame q (n + 1)) } u)) ∧
      (segments q ≤ n + 1 →
        let left := setBus b { bus with
          errors := bus.errors - 1, tx := none, wire := none,
          queue := bus.queue.filter fun p => !(p.unit == q.unit && p.source.isSome == q.source.isSome) } u
        (q.source = none → exec (.frameSent b) s = .next left) ∧
        (∀ d, q.source ≠ none → (unitAt q.unit u).defn = some d →
          exec (.frameSent b) s = .next (setUnit q.unit { unitAt q.unit u with
            awaited := some { tag := q.tag, msg := q.msg, waits := 0, timer := d.timeout } } left))))

/-- R128 to R130, R66: a failed frame raises the error count by 8 and stays on the wire; one that would pass 255 turns an ACTIVE
bus OFF for 200 ms with BUS_FAULT: its queue, its units' entries, awaited replies and claims are gone, nothing long stands on
it, and the units of the other bus are as before, whatever the order of the consequences. When the recovery timer expires an
OFF bus is ACTIVE with a count of 0. An idle wire, or a recovery timer that does not run, leaves the state as it is (the model's
choice, log 5). A dropped message's frame that fails is not sent again, and on a bus that is not ACTIVE the count stays at
255 (log 28). What the ended entries, claims and streams answer is not said here. -/
def Obligations.TransmitErrorsLeadToBusOff : Prop :=
  ∀ (b : BusId) (race : List Nat) (s u : State), TakenAt s u →
    let bus := busAt b u
    (bus.wire = none → exec (.frameFailed b race) s = .next u) ∧
    (bus.wire ≠ none → bus.tx ≠ none → bus.errors + 8 ≤ 255 →
      exec (.frameFailed b race) s = .next (setBus b { bus with errors := bus.errors + 8 } u)) ∧
    (bus.wire ≠ none → bus.tx = none → bus.errors + 8 ≤ 255 →
      exec (.frameFailed b race) s = .next (setBus b { bus with errors := bus.errors + 8, wire := none } u)) ∧
    (bus.wire ≠ none → bus.state ≠ .active → 255 < bus.errors + 8 →
      exec (.frameFailed b race) s = .next (setBus b { bus with errors := 255, wire := none } u)) ∧
    (bus.wire ≠ none → bus.state = .active → 255 < bus.errors + 8 → ∃ v, exec (.frameFailed b race) s = .next v ∧
      busAt b v = { state := .off, queue := [], tx := none, wire := none, errors := 255, recovery := some 200 } ∧
      (∀ a, a ≠ b → busAt a v = busAt a u) ∧ v.monitor.busFault = true ∧ NothingOnBus b v ∧
      (∀ w, unitBus w u ≠ some b → unitAt w v = unitAt w u) ∧
      (∀ w, unitBus w u = some b →
        (unitAt w v).out = none ∧ (unitAt w v).wait = [] ∧ (unitAt w v).awaited = none ∧ (unitAt w v).reasm = none ∧
        ((unitAt w u).claim.state ≠ .free → unitAt w v = busEndedUnit (unitAt w u))) ∧
      v.grants = u.grants ∧ v.filtered = u.filtered ∧ v.spt = u.spt) ∧
    (bus.recovery = none → exec (.recoveryTimerExpiry b) s = .next u) ∧
    (bus.recovery ≠ none → bus.state = .off →
      exec (.recoveryTimerExpiry b) s = .next (setBus b { bus with state := .active, errors := 0, recovery := none } u))

/-- R117, R123: a frame on the reply id of a DEFINED unit of an ACTIVE bus is taken by the unit's reassembly; a complete body
is handed to matching; other frames change nothing, a frame of fewer than 2 bytes among them (log 15). Pad bytes of a last
frame are not data (log 14), and a first segment starts a reassembly whatever its index is (the model's choice, log 32). -/
def Obligations.UnitRepliesAreReassembled : Prop :=
  ∀ (b : BusId) (id : CanId) (frame : List Byte) (s u : State), TakenAt s u →
    let named := fun w => ∃ d, (unitAt w u).defn = some d ∧ d.bus = b ∧ d.repId = id
    ((busAt b u).state ≠ .active ∨ (∀ w, ¬ named w) ∨ frame.length < 2 →
      exec (.unitReplySegment b id frame) s = .next u) ∧
    (∀ v h l data, (busAt b u).state = .active → named v → (∀ w, w < v → ¬ named w) → frame = h :: l :: data →
      let first := h.getLsbD 7
      let last := h.getLsbD 6
      let index := h.toNat / 16 % 4
      let un := unitAt v u
      let left := fun r => setUnit v { un with reasm := r } u
      let held : Option (Nat × List Byte × Nat) :=
        if first then some (l.toNat, [], 1)
        else match un.reasm with
          | some x => if x.next = index then some (x.length, x.bytes, index + 1) else none
          | none => none
      (held = none → exec (.unitReplySegment b id frame) s = .next (left none)) ∧
      (∀ length bytes next, held = some (length, bytes, next) →
        let rest := length - bytes.length
        let carried := data.take 62
        let added := bytes ++ (if last = true ∧ frame.length = canFdLength (2 + rest) then carried.take rest else carried)
        (length < added.length ∨ 248 < added.length ∨ (last = true ∧ added.length ≠ length) →
          exec (.unitReplySegment b id frame) s = .next (left none)) ∧
        (added.length ≤ length → added.length ≤ 248 → last = false →
          exec (.unitReplySegment b id frame) s = .next
            (left (some { length := length, bytes := added, next := next }))) ∧
        (added.length = length → added.length ≤ 248 → last = true →
          exec (.unitReplySegment b id frame) s = .next (takeReply b v added (left none)))))

/-- R124 to R127: a complete reply that matches the awaited reply completes the outstanding entry, or, being a WAIT, restarts
the timer at 5,000 ms eight times and then completes it TIMEOUT; any other reply is stray and changes nothing but counters.
The reply timer's expiry completes the entry TIMEOUT and reports it. The effect comes before its report, and at the ninth WAIT the
report of WAIT_NOTICES before that of TIMEOUTS (the model's choice, log 16); a reply timer that does not run leaves the state as it is (log 5). -/
def Obligations.MatchedRepliesCompleteEntries : Prop :=
  (∀ (b : BusId) (v : UnitId) (body : List Byte) (w : State),
    let stray := report ⟨.lateReply, none, some b, some v⟩ w
    let port := (unitAt v w).out.bind fun e => sourcePort e.source
    let told := fun e x => report ⟨e, port, some b, some v⟩ x
    ((unitAt v w).awaited = none ∨ body.length < 4 → takeReply b v body w = stray) ∧
    (∀ aw kind tag len flags payload, (unitAt v w).awaited = some aw → body = kind :: tag :: len :: flags :: payload →
      let agrees := tag.toNat % 16 = aw.tag.toNat ∧ len.toNat = payload.length
      let fits := match aw.msg with
        | .memoryFetch _ n => payload.length = n
        | .itemFetch _ => payload.length ≤ 240
        | .faultList => payload.length ≤ 240
        | .routineRun _ _ => payload.length ≤ 240
        | .presence => False
        | _ => True
      let data := match aw.msg with
        | .memoryFetch _ _ => payload
        | .itemFetch _ => payload
        | .faultList => payload
        | .routineRun _ _ => payload
        | _ => []
      (agrees → kind = 1 → fits → takeReply b v body w = completeOut v (.positive data) w) ∧
      (∀ reason, agrees → kind = 2 → payload = [reason] → takeReply b v body w = completeOut v (.negative reason) w) ∧
      (agrees → kind = 3 → payload = [] →
        (aw.waits < 8 → takeReply b v body w = told .waitNotices
          (setUnit v { unitAt v w with awaited := some { aw with waits := aw.waits + 1, timer := 5000 } } w)) ∧
        (8 ≤ aw.waits → takeReply b v body w = told .timeouts (told .waitNotices (completeOut v .timeout w)))) ∧
      (¬ agrees ∨ (kind = 1 ∧ ¬ fits) ∨ (kind = 2 ∧ payload.length ≠ 1) ∨ (kind = 3 ∧ payload ≠ []) ∨
          (kind ≠ 1 ∧ kind ≠ 2 ∧ kind ≠ 3) →
        takeReply b v body w = stray))) ∧
  (∀ (v : UnitId) (s u : State), TakenAt s u →
    ((unitAt v u).awaited = none → exec (.replyTimerExpiry v) s = .next u) ∧
    ((unitAt v u).awaited ≠ none → exec (.replyTimerExpiry v) s = .next
      (report ⟨.timeouts, (unitAt v u).out.bind fun e => sourcePort e.source, unitBus v u, some v⟩
        (completeOut v .timeout u))))

/-- R52, R55, R56, R61, R63, R75: an outstanding entry that completes hands its result to its source and is gone. A channel's
request is answered, a stream block's result goes to its context (R91) and a row's to the map engine (R106); a MODE ENTER
makes its claim the target mode with a CLAIM_START record, or returns it to its prior mode or FREE, and its withdrawal only
answers it; the base request of a LEAVING claim frees it with a CLAIM_END record and answers a pending release. -/
def Obligations.EntriesCompleteToTheirSources : Prop :=
  (∀ (v : UnitId) (e : Entry) (r : Result) (s : State), (unitAt v s).out = some e →
    let un := unitAt v s
    let cl := un.claim
    let gone := fun x => setUnit v { unitAt v x with out := none, awaited := none } x
    let entered := fun (mode : Mode) keep presence => setUnit v { un with
      claim := { cl with
        state := (match mode with
          | .attended => ClaimState.attended
          | .flash => ClaimState.flash)
        target := none, prior := none, keep := keep }
      claimTimer := some keep, presence := presence } s
    let freed := setUnit v { un with claim := Claim.free, claimTimer := none, presence := none } s
    (∀ c, e.source = .channel c → (∀ mode, e.msg ≠ .modeEnter mode) →
      completeOut v r s = gone (match r with
        | .positive data => completeActive c .done data s
        | .negative reason => completeActive c .unitNegative [reason] s
        | .timeout => completeActive c .timeout [] s
        | .ended st => completeActive c st [] s)) ∧
    (∀ k c, e.source = .stream k c → completeOut v r s = gone (blockDone k r s)) ∧
    (∀ c, e.source = .mapRow c → completeOut v r s = gone (rowDone r s)) ∧
    (∀ c mode st, e.source = .channel c → e.msg = .modeEnter mode → r = .ended st →
      completeOut v r s = gone (completeActive c st [] s)) ∧
    (∀ c mode target, e.source = .channel c → e.msg = .modeEnter mode → cl.state = .entering → cl.target = some target →
      (∀ data, r = .positive data → cl.prior = none →
        completeOut v r s = gone (writeRecord (some (chanPort c)) (some c) cl.grant (some v) (.claimStart target false)
          (completeActive c .done [] (entered target e.keep (some 1000))))) ∧
      (∀ data prior, r = .positive data → cl.prior = some prior →
        completeOut v r s = gone (writeRecord (some (chanPort c)) (some c) cl.grant (some v) (.claimStart target true)
          (completeActive c .done [] (entered target e.keep un.presence)))) ∧
      (∀ st payload, (∃ reason, r = .negative reason ∧ st = .unitNegative ∧ payload = [reason]) ∨
          (r = .timeout ∧ st = .timeout ∧ payload = []) →
        (cl.prior = none → completeOut v r s = gone (completeActive c st payload freed)) ∧
        (∀ prior, cl.prior = some prior →
          completeOut v r s = gone (completeActive c st payload (entered prior cl.keep un.presence))))) ∧
    (∀ c mode, e.source = .channel c → e.msg = .modeEnter mode → cl.state ≠ .entering → (∀ st, r ≠ .ended st) →
      completeOut v r s = gone (completeActive c (if cl.reason = some .interlock then .interlock else .withdrawn) [] s)) ∧
    (∀ reason answered, e.source = .base → cl.state = .leaving → cl.reason = some reason →
      ((∃ data, r = .positive data) ∨ (∃ x, r = .negative x)) ∧ answered = true ∨ (r = .timeout ∧ answered = false) →
      let recorded := writeRecord (cl.holder.map chanPort) cl.holder cl.grant (some v) (.claimEnd reason answered) freed
      (cl.releasePending = false → completeOut v r s = gone recorded) ∧
      (∀ h, cl.releasePending = true → cl.holder = some h →
        completeOut v r s = gone (completeActive h .done [] recorded)))) ∧
  (∀ (c : ChanId) (st : Status) (payload : List Byte) (s : State),
    let ch := chanAt c s
    (ch.active = none → completeActive c st payload s = s) ∧
    (∀ a, ch.active = some a →
      let left := { freeBuffer a.buf ch with active := none }
      (ch.state = .closed ∨ ch.state = .halted → completeActive c st payload s = setChan c left s) ∧
      (ch.state ≠ .closed → ch.state ≠ .halted → HasRoom (chanPort c) s →
        completeActive c st payload s = setChan c
          { left with state := if ch.binding ≠ none then .streaming else if ch.staged ≠ none then .busy else .idle }
          (pushReply (requestReply c a.buf a.kind st a.clamped payload) s))))

/-- R91, R92, R106 to R109, R111: the block in slot A that completes POSITIVE is confirmed, and slot B may follow it; one that
fails concludes its stream, and an end that pends on a draining or CONCLUDED context is then answered with its status and
counts. A row that completes POSITIVE joins its job's assembly and is followed by the next row or the job's answer; one that
fails ends its job; an orphan's result is dropped. -/
def Obligations.BlocksAndRowsComplete : Prop :=
  (∀ (k : CtxId) (x : Stream) (a : SlotA) (s : State), streamAt k s = some x → x.slotA = some a →
    let y := { x with slotA := none, confirmed := x.confirmed + a.bytes.length }
    let z := { x with slotA := none }
    (∀ data, x.state = .filling → x.slotB.length < x.size → x.accepted < x.total ∨ x.slotB = [] → x.size ≠ 0 →
      blockDone k (.positive data) s = setStream k (some y) s) ∧
    (∀ data, x.state = .filling ∨ x.state = .draining → x.slotB ≠ [] →
      x.slotB.length = x.size ∨ x.accepted = x.total ∨ x.state = .draining →
      blockDone k (.positive data) s = restartClaimTimer x.unit (placeEntry x.unit
        { source := .stream k x.chan,
          msg := .memoryStore (windowByte x.unit x.window (x.start + x.issued) s) x.slotB true,
          grant := some x.grant, window := some x.window, keep := 0 }
        (setStream k (some { y with
          slotA := some ⟨x.issued, x.slotB⟩, issued := x.issued + x.slotB.length, slotB := [] }) s))) ∧
    (∀ data, x.state = .draining → x.slotB = [] → x.size ≠ 0 → x.endPending = some .streamEnd → x.concluded = none →
      blockDone k (.positive data) s = completeActive x.chan
        (if x.confirmed + a.bytes.length = x.total then .done else .short)
        (leBytes 4 (x.confirmed + a.bytes.length) ++ leBytes 4 x.total)
        (setStream k (some { y with release := true, endPending := none }) s)) ∧
    (x.state = .filling → x.endPending = none →
      let concluded := fun how => setStream k (some { z with
        state := .concluded, concluded := some how, slotB := [], idle := none }) s
      (∀ reason, blockDone k (.negative reason) s = concluded .failed) ∧ blockDone k .timeout s = concluded .failed ∧
      (∀ st, blockDone k (.ended st) s =
        if st = .interlock ∨ st = .notClaimed then concluded .aborted else concluded .failed)) ∧
    (x.state = .concluded → x.endPending = none →
      (∀ data, blockDone k (.positive data) s = setStream k (some y) s) ∧
      (∀ reason, blockDone k (.negative reason) s = setStream k (some z) s) ∧
      blockDone k .timeout s = setStream k (some z) s ∧ ∀ st, blockDone k (.ended st) s = setStream k (some z) s) ∧
    (∀ e, x.endPending = some e →
      let answered := fun (how : Concluded) w => completeActive x.chan
        (match how with
          | .failed => .streamFailed
          | .aborted => .streamAborted
          | .withdrawn => .withdrawn)
        (match e with
          | .streamEnd => leBytes 4 w.confirmed ++ leBytes 4 w.total
          | .streamAbort => leBytes 4 w.confirmed)
        (setStream k (some { w with
          state := .concluded, concluded := some how, release := true, endPending := none }) s)
      (x.state = .draining →
        let failed := fun how => answered how { z with slotB := [], idle := none }
        (∀ reason, blockDone k (.negative reason) s = failed .failed) ∧ blockDone k .timeout s = failed .failed ∧
        ∀ st, blockDone k (.ended st) s =
          if st = .interlock ∨ st = .notClaimed then failed .aborted else failed .failed) ∧
      (∀ how, x.state = .concluded → x.concluded = some how →
        (∀ data, blockDone k (.positive data) s = answered how y) ∧
        (∀ reason, blockDone k (.negative reason) s = answered how z) ∧ blockDone k .timeout s = answered how z ∧
        ∀ st, blockDone k (.ended st) s = answered how z))) ∧
  (∀ (w : UnitId) (r : Result) (s : State), s.map.slot = some ⟨w, true⟩ →
    rowDone r s = setMap { s.map with slot := none } s) ∧
  (∀ (w : UnitId) (j : Job) (s : State), s.map.slot = some ⟨w, false⟩ → s.map.active = some j →
    let next := { s.map with active := s.map.queue.head?, queue := s.map.queue.tail, slot := none }
    (∀ data,
      let j1 := { j with
        done := j.done + 1, issuing := false,
        assembly := (match j.kind with
          | .read => j.assembly ++ data
          | .write => j.assembly) }
      let kept := { s.map with active := some j1, slot := none }
      (j.done + 1 ≠ j.plan.length → rowDone (.positive data) s = issueRow (setMap kept s)) ∧
      (j.done + 1 = j.plan.length → rowDone (.positive data) s = setMap next (completeActive j.chan .done
        (match j.kind with
          | .read => [byte j.r0, byte j.c0, byte j.width, byte j.height] ++ j.assembly ++ data
          | .write => [byte j.plan.length]) s))) ∧
    (∀ reason, rowDone (.negative reason) s =
      setMap next (completeActive j.chan .unitNegative [byte j.done, byte j.plan.length, reason] s)) ∧
    rowDone .timeout s = setMap next (completeActive j.chan .timeout [byte j.done, byte j.plan.length] s) ∧
    (∀ st, st ≠ .done → rowDone (.ended st) s =
      setMap next (completeActive j.chan st [byte j.done, byte j.plan.length] s)))

/-! ### Internal steps, timers, grants' ends, samples and lines -/

/-- R52, R75, R85, R92, R103 to R105: the rows of the internal steps. The head of a wait list is promoted when nothing is
outstanding; a released context is freed with its record and its channel's binding; the started job makes its checks and issues
its row; a staged request is decided when no request is active; a drained, cleared channel is IDLE. Where a step is not due the
row changes nothing (the model's choice, log 1 and log 5). -/
def Obligations.InternalStepsAreTaken : Prop :=
  ∀ s : State, s.inReset = false →
    (∀ v d e rest, (unitAt v s).defn = some d → (unitAt v s).out = none → (unitAt v s).wait = e :: rest →
      exec (.waitListPromotion v) s = .next
        (setUnit v { unitAt v s with out := some e, wait := rest, tag := (unitAt v s).tag + 1 }
          (setBus d.bus { busAt d.bus s with queue := (busAt d.bus s).queue ++
            [{ unit := v, msg := e.msg, source := some e.source, cls := entryClass e, entered := s.moment,
               tag := (unitAt v s).tag, reqId := d.reqId }] } s))) ∧
    (∀ v, (unitAt v s).out ≠ none ∨ (unitAt v s).wait = [] → exec (.waitListPromotion v) s = .next s) ∧
    (∀ k x, streamAt k s = some x → x.release = true → x.slotA = none →
      let ch := chanAt x.chan s
      exec (.streamContextFreed k) s = .next
        (setStream k none (setChan x.chan
          { ch with
            binding := none
            state :=
              if ch.state = .closed ∨ ch.state = .halted then ch.state
              else if ch.active ≠ none ∨ ch.staged ≠ none then .busy else .idle }
          (writeRecord (some (chanPort x.chan)) (some x.chan) (some x.grant) (some x.unit)
            (.stream x.window x.start x.total (some (x.confirmed, match x.concluded with
              | some .failed => .streamFailed
              | some .aborted => .streamAborted
              | some .withdrawn => .withdrawn
              | none => if x.confirmed = x.total then .done else .short))) s)))) ∧
    (∀ k, (∀ x, streamAt k s = some x → x.release = false ∨ x.slotA ≠ none) → exec (.streamContextFreed k) s = .next s) ∧
    (∀ j r, s.map.active = some j → s.map.slot = none → j.issuing = false → j.plan[j.done]? = some r →
      let cl := (unitAt j.unit s).claim
      let ends := fun st => setMap { s.map with active := s.map.queue.head?, queue := s.map.queue.tail }
        (completeActive j.chan st [byte j.done, byte j.plan.length] s)
      (reservedByOther j.chan cl = true → exec .mapJobStart s = .next (ends .held)) ∧
      (reservedByOther j.chan cl = false → j.kind = .write → holdsClaim j.chan cl = false →
        exec .mapJobStart s = .next (ends .notClaimed)) ∧
      (reservedByOther j.chan cl = false → j.kind = .read ∨ holdsClaim j.chan cl = true →
        exec .mapJobStart s = .next (placeEntry j.unit
          { source := .mapRow j.chan, grant := some j.grant, window := some j.window, keep := 0,
            msg := match j.kind with
              | .read => .memoryFetch r.addr r.len
              | .write => .memoryStore r.addr r.data false }
          (setMap { s.map with active := some { j with issuing := true }, slot := some ⟨j.unit, false⟩ } s)))) ∧
    (s.map.active = none ∨ s.map.slot ≠ none → exec .mapJobStart s = .next s) ∧
    (∀ c b body, (∀ v, (unitAt v s).out = none → (unitAt v s).wait = []) →
      (chanAt c s).state ≠ .closed → (chanAt c s).state ≠ .halted → (chanAt c s).active = none →
      (chanAt c s).staged = some b → bufferAt b (chanAt c s) = some body →
      exec (.stagedRequestPromotion c) s = .next
        (decideTaken c b body (setChan c { chanAt c s with staged := none } s))) ∧
    (∀ c, (chanAt c s).state = .closed ∨ (chanAt c s).state = .halted ∨ (chanAt c s).active ≠ none ∨
        (chanAt c s).staged = none → exec (.stagedRequestPromotion c) s = .next s) ∧
    (∀ c, (chanAt c s).state = .halted → (chanAt c s).clearPending = true → (chanAt c s).active = none →
      (chanAt c s).binding = none →
      exec (.channelDrained c) s = .next (setChan c { chanAt c s with
        state := .idle, expect := .x, bufX := none, bufY := none, haltCause := none, clearPending := false } s)) ∧
    (∀ c, (chanAt c s).state ≠ .halted ∨ (chanAt c s).clearPending = false ∨ (chanAt c s).active ≠ none ∨
        (chanAt c s).binding ≠ none → exec (.channelDrained c) s = .next s)

/-- R58, R60, R95: an expired claim timer sends a held claim LEAVING with reason LAPSED and is reported; the presence timer
queues one PRESENCE frame of class 1 and restarts, or stops while the claim is LEAVING; the idle timer aborts a STRICT stream
and restarts and reports for a LENIENT one. The claim is LEAVING before CLAIM_LAPSES is reported (the model's choice, log 16),
and a timer that is stopped does not expire (log 5). The base request of R61 and the work R64 ends are said of MODE RELEASE
(`ModeReleaseLeaves`), not here. -/
def Obligations.ClaimPresenceAndIdleTimers : Prop :=
  (∀ (v : UnitId) (s u : State), TakenAt s u →
    let un := unitAt v u
    (un.claimTimer = none → exec (.claimTimerExpiry v) s = .next u) ∧
    (un.claimTimer ≠ none → un.claim.state = .attended ∨ un.claim.state = .flash →
      ∃ w, exec (.claimTimerExpiry v) s = .next
          (report ⟨.claimLapses, un.claim.holder.map chanPort, unitBus v u, some v⟩ w) ∧ Winds u w ∧
        (unitAt v w).claimTimer = none ∧
        (unitAt v w).claim = { un.claim with
          state := .leaving, reason := some .lapsed, target := none, prior := none,
          left := some (if un.claim.state = .flash then .flash else .attended) }) ∧
    (un.presence = none → exec (.presenceTimerExpiry v) s = .next u) ∧
    (un.presence ≠ none → un.claim.state = .leaving →
      exec (.presenceTimerExpiry v) s = .next (setUnit v { un with presence := none } u)) ∧
    (∀ d, un.presence ≠ none → un.claim.state ≠ .leaving → un.defn = some d →
      let restarted := setUnit v { un with presence := some 1000 } u
      let bus := busAt d.bus u
      let queued := ∃ q ∈ bus.queue, q.unit = v ∧ q.source = none
      (queued → exec (.presenceTimerExpiry v) s = .next restarted) ∧
      (¬ queued → exec (.presenceTimerExpiry v) s = .next (setBus d.bus { bus with queue := bus.queue ++
        [{ unit := v, msg := .presence, source := none, cls := 1, entered := u.moment, tag := 0, reqId := d.reqId }] }
        restarted)))) ∧
  (∀ (k : CtxId) (s u : State), TakenAt s u →
    (∀ x, streamAt k u = some x →
      (x.idle = none → exec (.idleTimerExpiry k) s = .next u) ∧
      (x.idle ≠ none → x.policy = .strict → x.state = .filling → x.endPending = none →
        exec (.idleTimerExpiry k) s = .next (setStream k (some { x with
          state := .concluded, concluded := some .aborted, slotB := [], idle := none }) u)) ∧
      (x.idle ≠ none → x.policy = .lenient →
        exec (.idleTimerExpiry k) s = .next
          (report ⟨.streamGap, some (chanPort x.chan), unitBus x.unit u, some x.unit⟩
            (setStream k (some { x with idle := some 3000 }) u)))) ∧
    (streamAt k u = none → exec (.idleTimerExpiry k) s = .next u))

/-- R12, R13, R17, R18, R150: expiry and revoke end a grant, whatever the order of the consequences (log 4): the trail gains its
GRANT_END record, with the reason and the state, allowance and counter at the end, and nothing more but a FREEZE record where a
reply dropped by a consequence turns the freeze ON; the slot is VACANT, the other slots are as before, nothing runs under it, and
work only ends. A unit whose claim the end does not reach keeps its entries, so that single requests admitted under the grant go on
there (R17). Where a claim held in ATTENDED or FLASH leaves, the outstanding entry stays, and the waiting ones stay but for the
former holder's that need the claim (R64); of those, the single requests of the ended grant stay too where the grant's end reaches
them before the claim's departure does (`spares`; R17, R64's last paragraph), as it does with no order given (log 33). The
consequences come before the revoke's own DONE is offered (the model's choice, log 16). An expiry that does not run leaves the
state as it is (the model's choice, log 5). A revoke of a VACANT slot is WRONG_STATE and of no slot BAD_ARGUMENT (R8). -/
def Obligations.GrantEndsVacateTheSlot : Prop :=
  ∀ (g : Slot) (race : List Nat) (s u : State), TakenAt s u →
    let x := grantAt g u
    let vacated := fun reason => setGrant g Grant.vacant
      (writeRecord (some x.requester) none (some g) none (.grantEnd reason x.state x.allowance x.counter) u)
    let recorded := fun reason =>
      appendRecord u.trail (some x.requester) none (some g) none (.grantEnd reason x.state x.allowance x.counter)
    let ended := fun reason v => Winds (vacated reason) v ∧ NothingUnder g v ∧ grantAt g v = Grant.vacant ∧
      (∀ i, i ≠ g → grantAt i v = grantAt i u) ∧
      (∀ w,
        let un := unitAt w u
        let needsClaim := fun h (e : Entry) => sourceChan e.source == some h && match e.msg with
          | .faultErase => true
          | .routineRun _ _ => true
          | .memoryStore _ _ _ => true
          | _ => false
        let single := fun e : Entry => e.grant == some g && match e.source with
          | .channel _ => true
          | _ => false
        (un.claim.grant ≠ some g ∨ canLeave un.claim = false → unitAt w v = un) ∧
        (∀ h, un.claim.grant = some g → un.claim.state = .attended ∨ un.claim.state = .flash → un.claim.holder = some h →
          un.out ≠ none → ∃ spares : Bool, (race = [] → spares = true) ∧ unitAt w v = { un with
            claim := { un.claim with
              state := .leaving, reason := some .grantEnded, target := none, prior := none
              left := some (if un.claim.state = .flash then .flash else .attended) }
            claimTimer := none
            wait := baseEntry :: un.wait.filter fun e => !(needsClaim h e && !(spares && single e)) })) ∧
      (v.trail = recorded reason ∨ (u.monitor.freeze = none ∧
        ∃ cause, v.trail = appendRecord (recorded reason) none none none none (.freeze cause)))
    (x.state ≠ .vacant → x.expiry ≠ 0 → ∃ v, exec (.grantExpiry g race) s = .next v ∧ ended .expired v) ∧
    (x.state = .vacant ∨ x.expiry = 0 → exec (.grantExpiry g race) s = .next u) ∧
    (∀ (env : Envelope) (slot : Byte),
      let answered := fun st w => offerReply (commandReply env 0x81 st []) false w
      (slot.toNat = g.val → x.state ≠ .vacant →
        ∃ v, exec (.grantRevoke env slot race) s = .next (answered .done v) ∧ ended .revoked v) ∧
      (slot.toNat = g.val → x.state = .vacant → exec (.grantRevoke env slot race) s = .next (answered .wrongState u)) ∧
      (32 ≤ slot.toNat → exec (.grantRevoke env slot race) s = .next (answered .badArgument u)))

/-- R137 to R139: at its expiry the sample timer restarts with the period, and each enabled level counter adds its level, or 1
by its test and edge memory, which takes the test's result; a wrap sets the overflow flag. While the freeze is ON without
COUNT_WHILE_FROZEN nothing is added. -/
def Obligations.SampleAddsLevels : Prop :=
  ∀ s u : State, TakenAt s u →
    let m := u.monitor
    let c := fun i => m.setups.get i
    let test := fun i n => if (c i).invert then decide (n < (c i).threshold) else decide ((c i).threshold ≤ n)
    let level := fun i => if (c i).enable then levelHeld (c i) u else none
    let amount := fun i =>
      match level i with
      | none => 0
      | some n =>
        if (c i).threshold = 0 then n
        else if test i n = true ∧ ((c i).edge = false ∨ m.edges.get i = false) then 1 else 0
    let stopped := m.freeze ≠ none ∧ m.countWhileFrozen = false
    ∃ t, exec .sampleTimerExpiry s = .next t ∧
      t.monitor.sampleTimer = 10 * m.period.toNat ∧
      (∀ i, t.monitor.edges.get i =
        match level i with
        | none => m.edges.get i
        | some n => if (c i).threshold = 0 then false else test i n) ∧
      (stopped → t.monitor.counters = m.counters ∧ t.monitor.flags = m.flags ∧ t.trail = u.trail) ∧
      (¬ stopped →
        (∀ i, t.monitor.counters.get i = m.counters.get i + BitVec.ofNat 32 (amount i)) ∧
        (∀ i, t.monitor.flags.get i = (m.flags.get i || decide (4294967296 ≤ (m.counters.get i).toNat + amount i))) ∧
        (m.freeze = none → (t.monitor.freeze ≠ none ↔
          ∃ i, m.flags.get i = false ∧ 4294967296 ≤ (m.counters.get i).toNat + amount i ∧ (c i).escalate = true))) ∧
      t.monitor.setups = m.setups ∧ t.monitor.escalated = m.escalated ∧
      t = { u with monitor := t.monitor, trail := t.trail }

/-- R41, R44, R131, R132: a raw change starts, restarts or stops the line's 50 ms filter timer; at its expiry the filtered
state takes the raw level. A fall of IGN puts both buses ASLEEP and ends the work of those that were ACTIVE, whatever the
order of the consequences (log 4); a rise makes each ASLEEP bus ACTIVE; a fall of MOVE or RUN changes the filtered state only.
In reset the raw level alone moves (log 6); a raw level that is already there, or a filter timer that does not run, changes
nothing (the model's choice, log 5). -/
def Obligations.LinesAreFilteredAndIgnitionSleeps : Prop :=
  ∀ (l : Line) (level : Bool) (race : List Nat) (s u : State),
    (s.inReset = true → exec (.rawLineChange l level) s = .next { s with raw := s.raw.set l level }) ∧
    (TakenAt s u →
      let taken := { u with filtered := u.filtered.set l (u.raw.get l), filterTimers := u.filterTimers.set l none }
      let rising := u.filterTimers.get l ≠ none ∧ u.raw.get l = true ∧ u.filtered.get l = false
      let falling := u.filterTimers.get l ≠ none ∧ u.raw.get l = false ∧ u.filtered.get l = true
      (u.raw.get l = level → exec (.rawLineChange l level) s = .next u) ∧
      (u.raw.get l ≠ level → exec (.rawLineChange l level) s = .next { u with
        raw := u.raw.set l level
        filterTimers := u.filterTimers.set l (if level = u.filtered.get l then none else some 50) }) ∧
      (u.filterTimers.get l = none → exec (.filterTimerExpiry l race) s = .next u) ∧
      (falling → l ≠ .ign → exec (.filterTimerExpiry l race) s = .next taken) ∧
      (rising → l = .ign → ∃ v, exec (.filterTimerExpiry l race) s = .next v ∧
        (∀ b, busAt b v = { busAt b u with
          state := if (busAt b u).state = .asleep then .active else (busAt b u).state }) ∧
        v = { taken with buses := v.buses }) ∧
      (falling → l = .ign → ∃ v, exec (.filterTimerExpiry l race) s = .next v ∧
        v.filtered = taken.filtered ∧ v.filterTimers = taken.filterTimers ∧ v.grants = u.grants ∧ v.spt = u.spt ∧
        (∀ b, (busAt b v).state = .asleep ∧ (busAt b v).errors = (busAt b u).errors ∧
          ((busAt b u).state = .active → (busAt b v).queue = [] ∧ (busAt b v).tx = none ∧ NothingOnBus b v) ∧
          ((busAt b u).state = .off → (busAt b v).recovery = none) ∧
          (∀ w, unitBus w u = some b →
            ((busAt b u).state = .active →
              (unitAt w v).out = none ∧ (unitAt w v).wait = [] ∧ (unitAt w v).awaited = none ∧
              ((unitAt w u).claim.state ≠ .free → unitAt w v = busEndedUnit (unitAt w u))) ∧
            ((busAt b u).state ≠ .active → unitAt w v = unitAt w u)))))

/-- R41 to R43, R113: a rise of MOVE or RUN, whatever the order of its consequences (log 4): the filtered state is asserted,
no claim is FLASH or bound for it, every stream is CONCLUDED, work only ends, and what the edge withdraws is gone: with MOVE
every WRITE job and every FAULT ERASE, ROUTINE RUN and store not begun; with RUN the WRITE jobs on windows that are not LIVE,
and the stores to such windows and MODE ENTERs for FLASH not begun. -/
def Obligations.RisesOfMoveAndRunEndWork : Prop :=
  ∀ (l : Line) (race : List Nat) (s u : State), TakenAt s u →
    u.filterTimers.get l ≠ none → u.raw.get l = true → u.filtered.get l = false → l ≠ .ign →
    let taken := { u with filtered := u.filtered.set l true, filterTimers := u.filterTimers.set l none }
    ∃ v, exec (.filterTimerExpiry l race) s = .next v ∧ Winds taken v ∧
      (∀ w, flashBound (unitAt w v).claim = false) ∧
      (∀ k x, streamAt k v = some x → x.state = .concluded) ∧
      (l = .move →
        (∀ j ∈ jobsOf v.map, j.kind = .read) ∧
        (∀ w, NoneUnbegun (fun e => match e.msg with
          | .faultErase => true
          | .routineRun _ _ => true
          | .memoryStore _ _ _ => true
          | _ => false) w v)) ∧
      (l = .run →
        (∀ j ∈ jobsOf v.map, j.kind = .write → isLive j.unit j.window v = true) ∧
        (∀ w, NoneUnbegun (fun e => match e.msg with
          | .memoryStore _ _ _ =>
            (match e.window with
              | some i => !isLive w i u
              | none => true)
          | .modeEnter .flash => true
          | _ => false) w v))

/-! ### Supervisor commands -/

/-- R4, R5: GRANT INSTALL. Bad arguments are BAD_ARGUMENT, an occupied named slot IN_USE and a full table NO_ROOM, nothing
changing; otherwise the named slot, or the lowest VACANT one for FFh, takes every field, ARMED for a SERVICE grant with lapse on
disconnect while the link is DOWN and else ACTIVE, a GRANT_START record is written and the slot number answered. -/
def Obligations.GrantInstallWritesAGrant : Prop :=
  ∀ (env : Envelope) (a : GrantArgs) (s u : State), TakenAt s u →
    let answered := fun st payload w => offerReply (commandReply env 0x80 st payload) false w
    let right := fun i : Nat => a.rights.toNat / 4 ^ i % 4
    let good := (a.slot.toNat < 32 ∨ a.slot = 0xFF#8) ∧ 1 ≤ a.requester.toNat ∧ a.requester.toNat ≤ 3 ∧
      a.unitValue.toNat ≤ 15 ∧ a.unitMask.toNat ≤ 15 ∧ 1 ≤ a.classes.toNat ∧ a.classes.toNat ≤ 255 ∧
      (∀ i, i < 4 → right i ≠ 3) ∧ a.allowance.toNat ≤ 1048575
    let chosen := fun g : Slot => (grantAt g u).state = .vacant ∧
      (a.slot.toNat = g.val ∨ (a.slot = 0xFF#8 ∧ ∀ h, h < g → (grantAt h u).state ≠ .vacant))
    (¬ good → exec (.grantInstall env a) s = .next (answered .badArgument [] u)) ∧
    (good → (∃ g : Slot, a.slot.toNat = g.val ∧ (grantAt g u).state ≠ .vacant) →
      exec (.grantInstall env a) s = .next (answered .inUse [] u)) ∧
    (good → a.slot = 0xFF#8 → (∀ g, (grantAt g u).state ≠ .vacant) →
      exec (.grantInstall env a) s = .next (answered .noRoom [] u)) ∧
    (∀ g, good → chosen g → ∃ x : Grant,
      exec (.grantInstall env a) s = .next (answered .done [BitVec.ofNat 8 g.val]
        (writeRecord (some x.requester) none (some g) none (.grantStart false x.allowance x.state) (setGrant g x u))) ∧
      x.requester = (if a.requester = 1 then .spt else if a.requester = 2 then .rpt else .svp) ∧
      x.state = (if a.requester = 1 ∧ a.lapse ≠ 0 ∧ u.spt.link = false then .armed else .active) ∧
      x.unitValue.toNat = a.unitValue.toNat ∧ x.unitMask.toNat = a.unitMask.toNat ∧ x.classes.toNat = a.classes.toNat ∧
      x.itemValue = a.itemValue ∧ x.itemMask = a.itemMask ∧ x.routineValue = a.routineValue ∧
      x.routineMask = a.routineMask ∧
      (∀ i : Fin 4, x.rights.get i =
        if right i.val = 0 then .none else if right i.val = 1 then .read else .readWrite) ∧
      x.allowance.toNat = a.allowance.toNat ∧
      x.counter.toNat = (if a.allowance = 0 then 0 else 1048576 - a.allowance.toNat) ∧
      (x.escalate = true ↔ a.escalate ≠ 0) ∧ x.expiry = a.expiry ∧ x.subMs = 0 ∧ (x.lapse = true ↔ a.lapse ≠ 0))

/-- R8 to R11, R19: SUSPEND, RESUME, RECHARGE and QUERY of a named slot. A slot above 1Fh is BAD_ARGUMENT (but FFh for QUERY,
which then gives every state) and a VACANT slot WRONG_STATE (but for QUERY); otherwise the grant takes the state and the
budget of the rule and nothing else of it changes, and RECHARGE alone writes a record. QUERY changes no grant and answers the
slot's 32 bytes of 11.6, with FFFFFFFFh as the remaining budget of an allowance of 0 (the model's choice, log 22), 01h for the
yes of escalate and of lapse on disconnect (log 34) and the whole seconds still to run as the model counts them (log 25). -/
def Obligations.GrantsAreSuspendedResumedRechargedQueried : Prop :=
  ∀ (env : Envelope) (slot : Byte) (allowance : BitVec 32) (g : Slot) (s u : State), TakenAt s u →
    let answered := fun code st payload w => offerReply (commandReply env code st payload) false w
    let x := grantAt g u
    let named := slot.toNat = g.val ∧ x.state ≠ .vacant
    let payable := x.allowance = 0 ∨ x.counter ≠ 0
    (32 ≤ slot.toNat →
      exec (.grantSuspend env slot) s = .next (answered 0x82 .badArgument [] u) ∧
      exec (.grantResume env slot) s = .next (answered 0x83 .badArgument [] u)) ∧
    (32 ≤ slot.toNat ∨ 1048575 < allowance.toNat →
      exec (.grantRecharge env slot allowance) s = .next (answered 0x84 .badArgument [] u)) ∧
    (slot.toNat = g.val → x.state = .vacant →
      exec (.grantSuspend env slot) s = .next (answered 0x82 .wrongState [] u) ∧
      exec (.grantResume env slot) s = .next (answered 0x83 .wrongState [] u) ∧
      (allowance.toNat ≤ 1048575 →
        exec (.grantRecharge env slot allowance) s = .next (answered 0x84 .wrongState [] u))) ∧
    (named → x.state = .armed →
      exec (.grantSuspend env slot) s = .next (answered 0x82 .wrongState [] u) ∧
      exec (.grantResume env slot) s = .next (answered 0x83 .wrongState [] u)) ∧
    (named → x.state ≠ .armed →
      exec (.grantSuspend env slot) s = .next (answered 0x82 .done [] (setGrant g { x with state := .suspended } u)) ∧
      (x.state ≠ .suspended → exec (.grantResume env slot) s = .next
        (answered 0x83 .done [if x.state = .active then 0x02#8 else 0x04#8] u)) ∧
      (x.state = .suspended → payable → exec (.grantResume env slot) s = .next
        (answered 0x83 .done [0x02#8] (setGrant g { x with state := .active } u))) ∧
      (x.state = .suspended → ¬ payable → exec (.grantResume env slot) s = .next
        (answered 0x83 .done [0x04#8] (setGrant g { x with state := .spent } u)))) ∧
    (named → allowance.toNat ≤ 1048575 →
      let next := if x.state = .spent then GrantState.active else x.state
      let counter : BitVec 20 := if allowance = 0 then 0 else BitVec.ofNat 20 (1048576 - allowance.toNat)
      exec (.grantRecharge env slot allowance) s = .next (answered 0x84 .done []
        (writeRecord (some x.requester) none (some g) none (.grantStart true (BitVec.ofNat 20 allowance.toNat) next)
          (setGrant g { x with state := next, allowance := BitVec.ofNat 20 allowance.toNat, counter := counter } u)))) ∧
    (let code := fun st => match st with
      | GrantState.vacant => (0 : Byte)
      | .armed => 1
      | .active => 2
      | .suspended => 3
      | .spent => 4
    let right := fun i : Fin 4 => match x.rights.get i with
      | .none => 0
      | .read => 1
      | .readWrite => 2
    let flag := fun b : Bool => if b then (1 : Byte) else 0
    (slot.toNat = g.val →
      exec (.grantQuery env slot) s = .next (answered 0x85 .done
        ([code x.state, (match x.requester with
            | .spt => 1
            | .rpt => 2
            | .svp => 3), BitVec.ofNat 8 x.unitValue.toNat, BitVec.ofNat 8 x.unitMask.toNat] ++
          leBytes 2 x.classes.toNat ++ leBytes 2 x.itemValue.toNat ++ leBytes 2 x.itemMask.toNat ++
          leBytes 2 x.routineValue.toNat ++ leBytes 2 x.routineMask.toNat ++
          [BitVec.ofNat 8 (right 0 + 4 * right 1 + 16 * right 2 + 64 * right 3)] ++ leBytes 4 x.allowance.toNat ++
          leBytes 2 x.expiry.toNat ++ [flag x.escalate, flag x.lapse] ++ leBytes 4 x.counter.toNat ++
          leBytes 4 (if x.allowance = 0 then 0xFFFFFFFF else if x.counter = 0 then 0 else 1048576 - x.counter.toNat) ++
          [BitVec.ofNat 8 g.val]) u)) ∧
    (slot = 0xFF#8 →
      exec (.grantQuery env slot) s = .next (answered 0x85 .done
        ((List.finRange 32).map fun h => code (grantAt h u).state) u))) ∧
    (32 ≤ slot.toNat → slot ≠ 0xFF#8 → exec (.grantQuery env slot) s = .next (answered 0x85 .badArgument [] u))

/-- R48, R49, R65: UNIT DEFINE and UNIT CLEAR of a unit without work replace or drop its definition, its claim, timers and tag
as before; with work they are IN_USE. CLAIM END forces a claim in ENTERING, ATTENDED or FLASH to leave, is DONE on a LEAVING one
and WRONG_STATE on a FREE one. Bad arguments are BAD_ARGUMENT; a window index above 3 names an absent window, and attribute bits
2 to 7 are not kept (log 26), nor are present bits 4 to 7 read (log 29). What a unit's reassembly held is dropped with its old
definition (R123). The base request and the answers of R61 and R63 are not said of CLAIM END here. -/
def Obligations.UnitsAndClaimsAreCommanded : Prop :=
  ∀ (env : Envelope) (a : UnitArgs) (unit : Byte) (v : UnitId) (b : BusId) (s u : State), TakenAt s u →
    let answered := fun code st w => offerReply (commandReply env code st []) false w
    let un := unitAt v u
    let work := un.claim.state ≠ .free ∨ un.out ≠ none ∨ un.wait ≠ [] ∨ (∃ j ∈ jobsOf u.map, j.unit = v) ∨
      ∃ k x, streamAt k u = some x ∧ x.unit = v
    let others := (List.finRange 16).filter fun w => w ≠ v ∧ unitBus w u = some b
    let window := fun i : Fin 4 => a.windowsPresent.getLsbD i.val
    let length := fun i : Fin 4 => (a.windows.get i).length.toNat
    let size := fun i : Fin 4 => length i * if (a.windows.get i).granularity = 0 then 256 else 4096
    let mapGood := fun j : Fin 4 =>
      let m := a.maps.get j
      ∃ i : Fin 4, m.window.toNat = i.val ∧ window i = true ∧
        (m.cell = 1 ∨ m.cell = 2 ∨ m.cell = 4) ∧ 1 ≤ m.columns.toNat ∧ m.columns.toNat ≤ 64 ∧
        1 ≤ m.rows.toNat ∧ m.rows.toNat ≤ 64 ∧ m.columns.toNat * m.cell.toNat ≤ m.pitch.toNat ∧ m.pitch.toNat ≤ 4096 ∧
        m.offset.toNat % m.cell.toNat = 0 ∧ m.pitch.toNat % m.cell.toNat = 0 ∧
        m.offset.toNat + (m.rows.toNat - 1) * m.pitch.toNat + m.columns.toNat * m.cell.toNat ≤ size i
    let good := a.reqId.toNat ≤ 0x7FF ∧ a.repId.toNat ≤ 0x7FF ∧ a.reqId ≠ a.repId ∧
      (∀ w ∈ others, ∀ d, (unitAt w u).defn = some d → ∀ id, id = a.reqId ∨ id = a.repId →
        d.reqId.toNat ≠ id.toNat ∧ d.repId.toNat ≠ id.toNat) ∧
      20 ≤ a.timeout.toNat ∧ a.timeout.toNat ≤ 2000 ∧ a.timeout.toNat % 10 = 0 ∧
      (∀ i, window i = true → 1 ≤ length i ∧ length i ≤ 256 ∧ (a.windows.get i).granularity.toNat ≤ 1) ∧
      (∀ j : Fin 4, a.mapsPresent.getLsbD j.val = true → mapGood j) ∧ others.length < 8
    let names := a.unit.toNat = v.val ∧ a.bus.toNat = if b = .ub0 then 0 else 1
    let clear := setUnit v { un with defn := none, reasm := none } u
    (names → ¬ good → exec (.unitDefine env a) s = .next (answered 0x88 .badArgument u)) ∧
    (16 ≤ a.unit.toNat ∨ 2 ≤ a.bus.toNat → exec (.unitDefine env a) s = .next (answered 0x88 .badArgument u)) ∧
    (names → good → work → exec (.unitDefine env a) s = .next (answered 0x88 .inUse u)) ∧
    (names → good → ¬ work → ∃ d : UnitDef,
      exec (.unitDefine env a) s = .next (answered 0x88 .done (setUnit v { un with defn := some d, reasm := none } u)) ∧
      d.bus = b ∧ d.reqId.toNat = a.reqId.toNat ∧ d.repId.toNat = a.repId.toNat ∧ d.timeout = a.timeout.toNat ∧
      (∀ i, d.windows.get i = if window i then some {
        base := (a.windows.get i).base
        granularity := if (a.windows.get i).granularity = 0 then .g256 else .g4096
        length := length i
        live := (a.windows.get i).attributes.getLsbD 0
        flashTarget := (a.windows.get i).attributes.getLsbD 1 } else none) ∧
      (∀ j, (d.maps.get j).map (·.window.val) =
        if a.mapsPresent.getLsbD j.val then some (a.maps.get j).window.toNat else none) ∧
      (∀ j m, d.maps.get j = some m →
        m.offset = (a.maps.get j).offset.toNat ∧ m.cell = (a.maps.get j).cell.toNat ∧
        m.columns = (a.maps.get j).columns.toNat ∧ m.rows = (a.maps.get j).rows.toNat ∧
        m.pitch = (a.maps.get j).pitch.toNat)) ∧
    (16 ≤ unit.toNat →
      exec (.unitClear env unit) s = .next (answered 0x89 .badArgument u) ∧
      exec (.claimEnd env unit) s = .next (answered 0x8A .badArgument u)) ∧
    (unit.toNat = v.val →
      (work → exec (.unitClear env unit) s = .next (answered 0x89 .inUse u)) ∧
      (¬ work → exec (.unitClear env unit) s = .next (answered 0x89 .done clear)) ∧
      (un.claim.state = .free → exec (.claimEnd env unit) s = .next (answered 0x8A .wrongState u)) ∧
      (un.claim.state = .leaving → exec (.claimEnd env unit) s = .next (answered 0x8A .done u)) ∧
      (canLeave un.claim = true → ∃ w, exec (.claimEnd env unit) s = .next (answered 0x8A .done w) ∧ Winds u w ∧
        (unitAt v w).claimTimer = none ∧
        (unitAt v w).claim = { un.claim with
          state := .leaving, reason := some .forced, target := none, prior := none, left := (unitAt v w).claim.left } ∧
        (un.claim.state = .attended → (unitAt v w).claim.left = some .attended) ∧
        (un.claim.state = .flash → (unitAt v w).claim.left = some .flash)))

/-- R82, R84, R85: CHANNEL HALT makes a working channel HALTED with cause COMMAND, its staged request dropped and its buffer
freed, withdraws the clear pending of a HALTED one, and is WRONG_STATE on a CLOSED one. CHANNEL CLEAR of a HALTED channel ends
its streams and its map jobs, and leaves it IDLE if it has drained and else HALTED with clear pending; repeated it changes
nothing, and on another channel it is WRONG_STATE. A bad port or index is BAD_ARGUMENT. -/
def Obligations.ChannelsAreHaltedAndCleared : Prop :=
  ∀ (env : Envelope) (port index : Byte) (s u : State), TakenAt s u →
    let halted := fun st w => offerReply (commandReply env 0x8C st []) false w
    let cleared := fun st w => offerReply (commandReply env 0x8D st []) false w
    (port = 0 ∨ 4 ≤ port.toNat ∨ 4 ≤ index.toNat →
      exec (.channelHalt env port index) s = .next (halted .badArgument u) ∧
      exec (.channelClear env port index) s = .next (cleared .badArgument u)) ∧
    (∀ c : ChanId, 1 ≤ port.toNat → index.toNat < 4 → c.val = 4 * (port.toNat - 1) + index.toNat →
      let ch := chanAt c u
      (ch.state = .closed → exec (.channelHalt env port index) s = .next (halted .wrongState u)) ∧
      (ch.state = .halted →
        exec (.channelHalt env port index) s = .next (halted .done (setChan c { ch with clearPending := false } u))) ∧
      (ch.state ≠ .closed → ch.state ≠ .halted →
        exec (.channelHalt env port index) s = .next (halted .done (setChan c { ch with
          state := .halted, haltCause := some .command, clearPending := false, staged := none
          bufX := if ch.staged = some .x then none else ch.bufX
          bufY := if ch.staged = some .y then none else ch.bufY } u))) ∧
      (ch.state ≠ .halted → exec (.channelClear env port index) s = .next (cleared .wrongState u)) ∧
      (ch.state = .halted → ch.clearPending = true →
        exec (.channelClear env port index) s = .next (cleared .done u)) ∧
      (ch.state = .halted → ch.clearPending = false → ∃ w,
        exec (.channelClear env port index) s = .next (cleared .done w) ∧
        (∀ k x, streamAt k w = some x → x.chan = c → x.state = .concluded) ∧
        (∀ j ∈ jobsOf w.map, j.chan ≠ c) ∧
        (∀ v, (unitAt v w).claim = (unitAt v u).claim) ∧
        ((chanAt c w).state = .idle →
          (chanAt c w).active = none ∧ (chanAt c w).binding = none ∧ (chanAt c w).expect = .x ∧
          (chanAt c w).bufX = none ∧ (chanAt c w).bufY = none ∧ (chanAt c w).haltCause = none ∧
          (chanAt c w).clearPending = false) ∧
        ((chanAt c w).state ≠ .idle →
          (chanAt c w).state = .halted ∧ (chanAt c w).clearPending = true ∧
          ((chanAt c w).active ≠ none ∨ (chanAt c w).binding ≠ none))))

/-- R134, R135, R140, R142, R145: a counter's setup, the period and policies, a counter's value and the named status items are
written, and nothing else of the part; bad arguments are BAD_ARGUMENT. Policy bits 2 to 7 and acknowledge flag bits 3 to 7 are
ignored (the model's choice, log 29); the counter form with FFh has the wrong length, and is MALFORMED (R162). ACKNOWLEDGE
answers the status after the clearing, and MONITOR READ changes nothing and answers the images of 11.6. -/
def Obligations.MonitorCommandsWriteTheMonitor : Prop :=
  ∀ (env : Envelope) (s u : State), TakenAt s u →
    let m := u.monitor
    let answered := fun code st payload w => offerReply (commandReply env code st payload) false w
    let timed := fun n w => { u with monitor := { w with sampleTimer := n } }
    let code := fun e => match e with
      | Event.admitted => (0x01 : Byte)
      | .refused => 0x02
      | .refusedGrant => 0x03
      | .refusedInterlock => 0x04
      | .refusedRange => 0x05
      | .sequence => 0x06
      | .unitMessages => 0x07
      | .timeouts => 0x08
      | .lateReply => 0x09
      | .waitNotices => 0x0A
      | .claimLapses => 0x0B
      | .replyDropped => 0x0C
      | .streamGap => 0x0D
      | .channelsBusy => 0x11
      | .waiting => 0x12
      | .busQueue => 0x13
      | .mapQueue => 0x14
    let flag := fun b : Bool => if b then (1 : Byte) else 0
    (∀ a : SetupArgs,
      let good := 1 ≤ a.event.toNat ∧ a.event.toNat ≤ 0x14 ∧ ¬ (0x0E ≤ a.event.toNat ∧ a.event.toNat ≤ 0x10) ∧
        1 ≤ a.ports.toNat ∧ a.ports.toNat ≤ 7 ∧ a.bus.toNat ≤ 2 ∧ a.unitValue.toNat ≤ 15 ∧ a.unitMask.toNat ≤ 15
      (¬ good ∨ 8 ≤ a.counter.toNat → a.counter ≠ 0xFF#8 →
        exec (.monitorSetup env a) s = .next (answered 0x90 .badArgument [] u)) ∧
      (a.counter = 0xFF#8 → exec (.monitorSetup env a) s = .next (answered 0x90 .malformed [] u)) ∧
      (∀ i : Fin 8, a.counter.toNat = i.val → good → ∃ c : Setup,
        exec (.monitorSetup env a) s = .next (answered 0x90 .done []
          { u with monitor := { m with setups := m.setups.set i.val c, edges := m.edges.set i.val false } }) ∧
        (c.enable = true ↔ a.enable ≠ 0) ∧ code c.event = a.event ∧
        c.ports = ⟨a.ports.getLsbD 0, a.ports.getLsbD 1, a.ports.getLsbD 2⟩ ∧
        c.bus = (if a.bus = 0 then .ub0 else if a.bus = 1 then .ub1 else .both) ∧
        c.unitValue.toNat = a.unitValue.toNat ∧ c.unitMask.toNat = a.unitMask.toNat ∧ c.threshold = a.threshold.toNat ∧
        (c.invert = true ↔ a.invert ≠ 0) ∧ (c.edge = true ↔ a.edge ≠ 0) ∧ (c.escalate = true ↔ a.escalate ≠ 0))) ∧
    (∀ steps policies : Byte,
      (steps = 0 → exec (.monitorSetupGlobal env steps policies) s = .next (answered 0x90 .badArgument [] u)) ∧
      (steps ≠ 0 → exec (.monitorSetupGlobal env steps policies) s = .next (answered 0x90 .done []
        (timed (10 * steps.toNat)
          { m with
            period := steps, countWhileFrozen := policies.getLsbD 0, freezeOnGrant := policies.getLsbD 1 })))) ∧
    (∀ (counter : Byte) (value : BitVec 32),
      (8 ≤ counter.toNat → exec (.monitorPreload env counter value) s = .next (answered 0x92 .badArgument [] u)) ∧
      (∀ i : Fin 8, counter.toNat = i.val → exec (.monitorPreload env counter value) s = .next
        (answered 0x92 .done [] { u with monitor := { m with counters := m.counters.set i.val value } }))) ∧
    (∀ (counters : Byte) (grants : BitVec 32) (flags : Byte), ∃ w : Monitor, ∃ status : List Byte,
      exec (.monitorAcknowledge env counters grants flags) s = .next (answered 0x93 .done status { u with monitor := w }) ∧
      (∀ i : Fin 8, w.flags.get i = (m.flags.get i && !counters.getLsbD i.val)) ∧
      (∀ g, g < 32 → w.escalated.getLsbD g = (m.escalated.getLsbD g && !grants.getLsbD g)) ∧
      w.trailHigh = (m.trailHigh && !flags.getLsbD 0) ∧ w.trailWrapped = (m.trailWrapped && !flags.getLsbD 1) ∧
      w.busFault = (m.busFault && !flags.getLsbD 2) ∧
      w = { m with
        flags := w.flags, escalated := w.escalated, trailHigh := w.trailHigh, trailWrapped := w.trailWrapped
        busFault := w.busFault } ∧
      status.length = 6 ∧
      (∀ i : Fin 8, (status.headD 0).getLsbD i.val = w.flags.get i) ∧
      status.tail = leBytes 4 w.escalated.toNat ++
        [BitVec.ofNat 8 (w.trailHigh.toNat + 2 * w.trailWrapped.toNat + 4 * w.busFault.toNat)]) ∧
    (∀ selector : Byte,
      (8 ≤ selector.toNat → selector ≠ 0xFF#8 →
        exec (.monitorRead env selector) s = .next (answered 0x91 .badArgument [] u)) ∧
      (∀ i : Fin 8, selector.toNat = i.val →
        let c := m.setups.get i
        exec (.monitorRead env selector) s = .next (answered 0x91 .done
          (leBytes 4 (m.counters.get i).toNat ++
            [flag c.enable, code c.event,
              BitVec.ofNat 8 (c.ports.spt.toNat + 2 * c.ports.rpt.toNat + 4 * c.ports.svp.toNat),
              (match c.bus with
                | .ub0 => 0
                | .ub1 => 1
                | .both => 2),
              BitVec.ofNat 8 c.unitValue.toNat, BitVec.ofNat 8 c.unitMask.toNat, BitVec.ofNat 8 c.threshold, flag c.invert,
              flag c.edge, flag c.escalate] ++
            [flag (m.edges.get i), flag (m.flags.get i)]) u)) ∧
      (selector = 0xFF#8 → ∃ flags : Byte, (∀ i : Fin 8, flags.getLsbD i.val = m.flags.get i) ∧
        exec (.monitorRead env selector) s = .next (answered 0x91 .done
          (((List.finRange 8).flatMap fun i => leBytes 4 (m.counters.get i).toNat) ++ [flags] ++
            leBytes 4 m.escalated.toNat ++
            [BitVec.ofNat 8 (m.trailHigh.toNat + 2 * m.trailWrapped.toNat + 4 * m.busFault.toNat)] ++
            (match m.freeze with
              | none => [0, 0, 0, 0xFF]
              | some (.counter counters) => [1, 1, counters, 0xFF]
              | some (.grant g) => [1, 2, 0, BitVec.ofNat 8 g.val]
              | some .command => [1, 3, 0, 0xFF]) ++
            [BitVec.ofNat 8 (m.countWhileFrozen.toNat + 2 * m.freezeOnGrant.toNat), m.period]) u)))

/-- R158: PORT SETUP is decided in order: an identifier above 7FFh or two equal ones are BAD_ARGUMENT, a link that is UP is
IN_USE, and otherwise both identifiers are stored and the answer is DONE. -/
def Obligations.PortSetupStoresTheIdentifiers : Prop :=
  ∀ (env : Envelope) (reqId repId : BitVec 16) (s u : State), TakenAt s u →
    let bad := 0x7FF < reqId.toNat ∨ 0x7FF < repId.toNat ∨ reqId = repId
    let answered := fun st w => offerReply (commandReply env 0x97 st []) false w
    (bad → exec (.portSetup env reqId repId) s = .next (answered .badArgument u)) ∧
    (¬ bad → u.spt.link = true → exec (.portSetup env reqId repId) s = .next (answered .inUse u)) ∧
    (¬ bad → u.spt.link = false → ∃ q p : CanId, q.toNat = reqId.toNat ∧ p.toNat = repId.toNat ∧
      exec (.portSetup env reqId repId) s = .next (answered .done { u with spt := { u.spt with reqId := q, repId := p } }))

/-- R163, R164, R20, R67, R81, R99, R115, R116, R147, R153: GATEWAY RESET empties every table, queue, reassembly and
the monitor's counts and status, keeps definitions, tags, bus states, setups, policies, the period, the link and its timer,
the identifiers and the filtered lines, writes one RESET record and leaves its own reply alone at SVP. STATUS READ changes
nothing and answers the part's state in the bytes of 11.6, which are 97. -/
def Obligations.GatewayResetAndStatusRead : Prop :=
  (∀ (env : Envelope) (s u : State), TakenAt s u →
    ∃ t, exec (.gatewayReset env) s = .next t ∧
      (∀ g, grantAt g t = Grant.vacant) ∧
      (∀ v, unitAt v t = { UnitRec.initial with defn := (unitAt v u).defn, tag := (unitAt v u).tag }) ∧
      (∀ c, chanAt c t = Channel.initial) ∧ (∀ k, streamAt k t = none) ∧ t.map = ⟨none, [], none⟩ ∧
      (∀ b, busAt b t = { busAt b u with
        queue := [], tx := none, recovery := if (busAt b u).state = .off then (busAt b u).recovery else none }) ∧
      t.trail = appendRecord u.trail none none none none .reset ∧
      (∀ i, t.monitor.counters.get i = 0 ∧ t.monitor.flags.get i = false ∧ t.monitor.edges.get i = false) ∧
      t.monitor.setups = u.monitor.setups ∧ t.monitor.countWhileFrozen = u.monitor.countWhileFrozen ∧
      t.monitor.freezeOnGrant = u.monitor.freezeOnGrant ∧ t.monitor.period = u.monitor.period ∧
      t.monitor.sampleTimer = 10 * u.monitor.period.toNat ∧ t.monitor.escalated = 0 ∧ t.monitor.freeze = none ∧
      t.monitor.busFault = false ∧ t.monitor.trailWrapped = decide (64 ≤ u.trail.records.length) ∧
      t.monitor.trailHigh = decide (47 ≤ u.trail.records.length) ∧
      t.spt = { u.spt with reasm := Vector.replicate 4 none, sending := none } ∧
      repliesAt .spt t = [] ∧ repliesAt .rpt t = [] ∧ repliesAt .svp t = [commandReply env 0x99 .done []] ∧
      t.rrdy = false ∧ t.vrdy = true ∧ t.raw = u.raw ∧ t.filtered = u.filtered ∧ t.filterTimers = u.filterTimers) ∧
  (∀ (env : Envelope) (s u : State), TakenAt s u →
    let depth := fun p => BitVec.ofNat 8 (repliesAt p u).length
    let channel := fun c : ChanId =>
      let ch := chanAt c u
      BitVec.ofNat 8
        ((match ch.state with
          | .closed => 0
          | .idle => 1
          | .busy => 2
          | .streaming => 3
          | .halted => 4) +
        (if ch.expect = .y then 8 else 0) +
        (match ch.haltCause with
          | none => 0
          | some .command => 16
          | some .replyDropped => 32
          | some .overrun => 48) +
        (if ch.clearPending then 64 else 0))
    let bus := fun b =>
      [(match (busAt b u).state with
          | .active => (0 : Byte)
          | .off => 1
          | .asleep => 2), BitVec.ofNat 8 (busAt b u).queue.length, BitVec.ofNat 8 (busAt b u).errors]
    let named := fun c : ChanId => BitVec.ofNat 8 (128 + 16 * (c.val / 4 + 1) + c.val % 4)
    let context := fun k =>
      match streamAt k u with
      | none => List.replicate 11 0
      | some x =>
        [(match x.state with
            | .filling => 1
            | .draining => 2
            | .concluded => 3), named x.chan, BitVec.ofNat 8 x.unit.val] ++ leBytes 4 x.accepted ++ leBytes 4 x.confirmed
    let jobs := u.map.active.toList ++ u.map.queue
    let job := fun j : Job => [named j.chan, BitVec.ofNat 8 j.unit.val, BitVec.ofNat 8 (j.map.val + match j.kind with
      | .read => 0
      | .write => 128)]
    let image := [BitVec.ofNat 8 (u.filtered.ign.toNat + 2 * u.filtered.run.toNat + 4 * u.filtered.move.toNat +
          8 * u.alert.toNat), if u.spt.link then 1 else 0] ++
      leBytes 2 u.spt.reqId.toNat ++ leBytes 2 u.spt.repId.toNat ++ [depth .spt, depth .rpt, depth .svp] ++
      (List.finRange 12).map channel ++ bus .ub0 ++ bus .ub1 ++ (List.finRange 4).flatMap context ++
      [BitVec.ofNat 8 jobs.length, (match u.map.slot with
        | none => 0
        | some r => if r.orphan then 3 else 1)] ++
      jobs.flatMap job ++ List.replicate (15 - 3 * jobs.length) 0 ++
      [BitVec.ofNat 8 u.trail.records.length] ++ leBytes 4 u.trail.next.toNat ++
      (match u.monitor.freeze with
        | none => [0, 0, 0, 0xFF]
        | some (.counter counters) => [1, 1, counters, 0xFF]
        | some (.grant g) => [1, 2, 0, BitVec.ofNat 8 g.val]
        | some .command => [1, 3, 0, 0xFF])
    exec (.statusRead env) s = .next (offerReply (commandReply env 0x98 .done image) false u) ∧
    (MapPlaces u.map → image.length = 97))
end

