-- ==== Sys2Proof/Laws/State.lean ====
section
/-! SUPPORT. What each named update of the state leaves in each field: one lemma per field per update. -/

namespace Sys2Proof.Machine

@[simp] theorem setGrant_inReset (g : Slot) (x : Grant) (s : State) : (setGrant g x s).inReset = s.inReset := rfl
@[simp] theorem setGrant_raw (g : Slot) (x : Grant) (s : State) : (setGrant g x s).raw = s.raw := rfl
@[simp] theorem setGrant_filtered (g : Slot) (x : Grant) (s : State) : (setGrant g x s).filtered = s.filtered := rfl
@[simp] theorem setGrant_filterTimers (g : Slot) (x : Grant) (s : State) : (setGrant g x s).filterTimers = s.filterTimers := rfl
@[simp] theorem setGrant_grants (g : Slot) (x : Grant) (s : State) : (setGrant g x s).grants = s.grants.set g.val x := rfl
@[simp] theorem setGrant_units (g : Slot) (x : Grant) (s : State) : (setGrant g x s).units = s.units := rfl
@[simp] theorem setGrant_chans (g : Slot) (x : Grant) (s : State) : (setGrant g x s).chans = s.chans := rfl
@[simp] theorem setGrant_streams (g : Slot) (x : Grant) (s : State) : (setGrant g x s).streams = s.streams := rfl
@[simp] theorem setGrant_map (g : Slot) (x : Grant) (s : State) : (setGrant g x s).map = s.map := rfl
@[simp] theorem setGrant_buses (g : Slot) (x : Grant) (s : State) : (setGrant g x s).buses = s.buses := rfl
@[simp] theorem setGrant_monitor (g : Slot) (x : Grant) (s : State) : (setGrant g x s).monitor = s.monitor := rfl
@[simp] theorem setGrant_trail (g : Slot) (x : Grant) (s : State) : (setGrant g x s).trail = s.trail := rfl
@[simp] theorem setGrant_spt (g : Slot) (x : Grant) (s : State) : (setGrant g x s).spt = s.spt := rfl
@[simp] theorem setGrant_replies (g : Slot) (x : Grant) (s : State) : (setGrant g x s).replies = s.replies := rfl
@[simp] theorem setGrant_miso (g : Slot) (x : Grant) (s : State) : (setGrant g x s).miso = s.miso := rfl
@[simp] theorem setGrant_moment (g : Slot) (x : Grant) (s : State) : (setGrant g x s).moment = s.moment := rfl
@[simp] theorem setGrant_pending (g : Slot) (x : Grant) (s : State) : (setGrant g x s).pending = s.pending := rfl

@[simp] theorem setUnit_inReset (u : UnitId) (x : UnitRec) (s : State) : (setUnit u x s).inReset = s.inReset := rfl
@[simp] theorem setUnit_raw (u : UnitId) (x : UnitRec) (s : State) : (setUnit u x s).raw = s.raw := rfl
@[simp] theorem setUnit_filtered (u : UnitId) (x : UnitRec) (s : State) : (setUnit u x s).filtered = s.filtered := rfl
@[simp] theorem setUnit_filterTimers (u : UnitId) (x : UnitRec) (s : State) : (setUnit u x s).filterTimers = s.filterTimers := rfl
@[simp] theorem setUnit_grants (u : UnitId) (x : UnitRec) (s : State) : (setUnit u x s).grants = s.grants := rfl
@[simp] theorem setUnit_units (u : UnitId) (x : UnitRec) (s : State) : (setUnit u x s).units = s.units.set u.val x := rfl
@[simp] theorem setUnit_chans (u : UnitId) (x : UnitRec) (s : State) : (setUnit u x s).chans = s.chans := rfl
@[simp] theorem setUnit_streams (u : UnitId) (x : UnitRec) (s : State) : (setUnit u x s).streams = s.streams := rfl
@[simp] theorem setUnit_map (u : UnitId) (x : UnitRec) (s : State) : (setUnit u x s).map = s.map := rfl
@[simp] theorem setUnit_buses (u : UnitId) (x : UnitRec) (s : State) : (setUnit u x s).buses = s.buses := rfl
@[simp] theorem setUnit_monitor (u : UnitId) (x : UnitRec) (s : State) : (setUnit u x s).monitor = s.monitor := rfl
@[simp] theorem setUnit_trail (u : UnitId) (x : UnitRec) (s : State) : (setUnit u x s).trail = s.trail := rfl
@[simp] theorem setUnit_spt (u : UnitId) (x : UnitRec) (s : State) : (setUnit u x s).spt = s.spt := rfl
@[simp] theorem setUnit_replies (u : UnitId) (x : UnitRec) (s : State) : (setUnit u x s).replies = s.replies := rfl
@[simp] theorem setUnit_miso (u : UnitId) (x : UnitRec) (s : State) : (setUnit u x s).miso = s.miso := rfl
@[simp] theorem setUnit_moment (u : UnitId) (x : UnitRec) (s : State) : (setUnit u x s).moment = s.moment := rfl
@[simp] theorem setUnit_pending (u : UnitId) (x : UnitRec) (s : State) : (setUnit u x s).pending = s.pending := rfl

@[simp] theorem setChan_inReset (c : ChanId) (x : Channel) (s : State) : (setChan c x s).inReset = s.inReset := rfl
@[simp] theorem setChan_raw (c : ChanId) (x : Channel) (s : State) : (setChan c x s).raw = s.raw := rfl
@[simp] theorem setChan_filtered (c : ChanId) (x : Channel) (s : State) : (setChan c x s).filtered = s.filtered := rfl
@[simp] theorem setChan_filterTimers (c : ChanId) (x : Channel) (s : State) : (setChan c x s).filterTimers = s.filterTimers := rfl
@[simp] theorem setChan_grants (c : ChanId) (x : Channel) (s : State) : (setChan c x s).grants = s.grants := rfl
@[simp] theorem setChan_units (c : ChanId) (x : Channel) (s : State) : (setChan c x s).units = s.units := rfl
@[simp] theorem setChan_chans (c : ChanId) (x : Channel) (s : State) : (setChan c x s).chans = s.chans.set c.val x := rfl
@[simp] theorem setChan_streams (c : ChanId) (x : Channel) (s : State) : (setChan c x s).streams = s.streams := rfl
@[simp] theorem setChan_map (c : ChanId) (x : Channel) (s : State) : (setChan c x s).map = s.map := rfl
@[simp] theorem setChan_buses (c : ChanId) (x : Channel) (s : State) : (setChan c x s).buses = s.buses := rfl
@[simp] theorem setChan_monitor (c : ChanId) (x : Channel) (s : State) : (setChan c x s).monitor = s.monitor := rfl
@[simp] theorem setChan_trail (c : ChanId) (x : Channel) (s : State) : (setChan c x s).trail = s.trail := rfl
@[simp] theorem setChan_spt (c : ChanId) (x : Channel) (s : State) : (setChan c x s).spt = s.spt := rfl
@[simp] theorem setChan_replies (c : ChanId) (x : Channel) (s : State) : (setChan c x s).replies = s.replies := rfl
@[simp] theorem setChan_miso (c : ChanId) (x : Channel) (s : State) : (setChan c x s).miso = s.miso := rfl
@[simp] theorem setChan_moment (c : ChanId) (x : Channel) (s : State) : (setChan c x s).moment = s.moment := rfl
@[simp] theorem setChan_pending (c : ChanId) (x : Channel) (s : State) : (setChan c x s).pending = s.pending := rfl

@[simp] theorem setStream_inReset (k : CtxId) (x : Option Stream) (s : State) : (setStream k x s).inReset = s.inReset := rfl
@[simp] theorem setStream_raw (k : CtxId) (x : Option Stream) (s : State) : (setStream k x s).raw = s.raw := rfl
@[simp] theorem setStream_filtered (k : CtxId) (x : Option Stream) (s : State) : (setStream k x s).filtered = s.filtered := rfl
@[simp] theorem setStream_filterTimers (k : CtxId) (x : Option Stream) (s : State) : (setStream k x s).filterTimers = s.filterTimers := rfl
@[simp] theorem setStream_grants (k : CtxId) (x : Option Stream) (s : State) : (setStream k x s).grants = s.grants := rfl
@[simp] theorem setStream_units (k : CtxId) (x : Option Stream) (s : State) : (setStream k x s).units = s.units := rfl
@[simp] theorem setStream_chans (k : CtxId) (x : Option Stream) (s : State) : (setStream k x s).chans = s.chans := rfl
@[simp] theorem setStream_streams (k : CtxId) (x : Option Stream) (s : State) : (setStream k x s).streams = s.streams.set k.val x := rfl
@[simp] theorem setStream_map (k : CtxId) (x : Option Stream) (s : State) : (setStream k x s).map = s.map := rfl
@[simp] theorem setStream_buses (k : CtxId) (x : Option Stream) (s : State) : (setStream k x s).buses = s.buses := rfl
@[simp] theorem setStream_monitor (k : CtxId) (x : Option Stream) (s : State) : (setStream k x s).monitor = s.monitor := rfl
@[simp] theorem setStream_trail (k : CtxId) (x : Option Stream) (s : State) : (setStream k x s).trail = s.trail := rfl
@[simp] theorem setStream_spt (k : CtxId) (x : Option Stream) (s : State) : (setStream k x s).spt = s.spt := rfl
@[simp] theorem setStream_replies (k : CtxId) (x : Option Stream) (s : State) : (setStream k x s).replies = s.replies := rfl
@[simp] theorem setStream_miso (k : CtxId) (x : Option Stream) (s : State) : (setStream k x s).miso = s.miso := rfl
@[simp] theorem setStream_moment (k : CtxId) (x : Option Stream) (s : State) : (setStream k x s).moment = s.moment := rfl
@[simp] theorem setStream_pending (k : CtxId) (x : Option Stream) (s : State) : (setStream k x s).pending = s.pending := rfl

@[simp] theorem setBus_inReset (b : BusId) (x : Bus) (s : State) : (setBus b x s).inReset = s.inReset := rfl
@[simp] theorem setBus_raw (b : BusId) (x : Bus) (s : State) : (setBus b x s).raw = s.raw := rfl
@[simp] theorem setBus_filtered (b : BusId) (x : Bus) (s : State) : (setBus b x s).filtered = s.filtered := rfl
@[simp] theorem setBus_filterTimers (b : BusId) (x : Bus) (s : State) : (setBus b x s).filterTimers = s.filterTimers := rfl
@[simp] theorem setBus_grants (b : BusId) (x : Bus) (s : State) : (setBus b x s).grants = s.grants := rfl
@[simp] theorem setBus_units (b : BusId) (x : Bus) (s : State) : (setBus b x s).units = s.units := rfl
@[simp] theorem setBus_chans (b : BusId) (x : Bus) (s : State) : (setBus b x s).chans = s.chans := rfl
@[simp] theorem setBus_streams (b : BusId) (x : Bus) (s : State) : (setBus b x s).streams = s.streams := rfl
@[simp] theorem setBus_map (b : BusId) (x : Bus) (s : State) : (setBus b x s).map = s.map := rfl
@[simp] theorem setBus_buses (b : BusId) (x : Bus) (s : State) : (setBus b x s).buses = s.buses.set b x := rfl
@[simp] theorem setBus_monitor (b : BusId) (x : Bus) (s : State) : (setBus b x s).monitor = s.monitor := rfl
@[simp] theorem setBus_trail (b : BusId) (x : Bus) (s : State) : (setBus b x s).trail = s.trail := rfl
@[simp] theorem setBus_spt (b : BusId) (x : Bus) (s : State) : (setBus b x s).spt = s.spt := rfl
@[simp] theorem setBus_replies (b : BusId) (x : Bus) (s : State) : (setBus b x s).replies = s.replies := rfl
@[simp] theorem setBus_miso (b : BusId) (x : Bus) (s : State) : (setBus b x s).miso = s.miso := rfl
@[simp] theorem setBus_moment (b : BusId) (x : Bus) (s : State) : (setBus b x s).moment = s.moment := rfl
@[simp] theorem setBus_pending (b : BusId) (x : Bus) (s : State) : (setBus b x s).pending = s.pending := rfl

@[simp] theorem setReplies_inReset (p : Port) (q : List Reply) (s : State) : (setReplies p q s).inReset = s.inReset := rfl
@[simp] theorem setReplies_raw (p : Port) (q : List Reply) (s : State) : (setReplies p q s).raw = s.raw := rfl
@[simp] theorem setReplies_filtered (p : Port) (q : List Reply) (s : State) : (setReplies p q s).filtered = s.filtered := rfl
@[simp] theorem setReplies_filterTimers (p : Port) (q : List Reply) (s : State) : (setReplies p q s).filterTimers = s.filterTimers := rfl
@[simp] theorem setReplies_grants (p : Port) (q : List Reply) (s : State) : (setReplies p q s).grants = s.grants := rfl
@[simp] theorem setReplies_units (p : Port) (q : List Reply) (s : State) : (setReplies p q s).units = s.units := rfl
@[simp] theorem setReplies_chans (p : Port) (q : List Reply) (s : State) : (setReplies p q s).chans = s.chans := rfl
@[simp] theorem setReplies_streams (p : Port) (q : List Reply) (s : State) : (setReplies p q s).streams = s.streams := rfl
@[simp] theorem setReplies_map (p : Port) (q : List Reply) (s : State) : (setReplies p q s).map = s.map := rfl
@[simp] theorem setReplies_buses (p : Port) (q : List Reply) (s : State) : (setReplies p q s).buses = s.buses := rfl
@[simp] theorem setReplies_monitor (p : Port) (q : List Reply) (s : State) : (setReplies p q s).monitor = s.monitor := rfl
@[simp] theorem setReplies_trail (p : Port) (q : List Reply) (s : State) : (setReplies p q s).trail = s.trail := rfl
@[simp] theorem setReplies_spt (p : Port) (q : List Reply) (s : State) : (setReplies p q s).spt = s.spt := rfl
@[simp] theorem setReplies_replies (p : Port) (q : List Reply) (s : State) : (setReplies p q s).replies = s.replies.set p q := rfl
@[simp] theorem setReplies_miso (p : Port) (q : List Reply) (s : State) : (setReplies p q s).miso = s.miso := rfl
@[simp] theorem setReplies_moment (p : Port) (q : List Reply) (s : State) : (setReplies p q s).moment = s.moment := rfl
@[simp] theorem setReplies_pending (p : Port) (q : List Reply) (s : State) : (setReplies p q s).pending = s.pending := rfl

@[simp] theorem setMap_inReset (m : MapEngine) (s : State) : (setMap m s).inReset = s.inReset := rfl
@[simp] theorem setMap_raw (m : MapEngine) (s : State) : (setMap m s).raw = s.raw := rfl
@[simp] theorem setMap_filtered (m : MapEngine) (s : State) : (setMap m s).filtered = s.filtered := rfl
@[simp] theorem setMap_filterTimers (m : MapEngine) (s : State) : (setMap m s).filterTimers = s.filterTimers := rfl
@[simp] theorem setMap_grants (m : MapEngine) (s : State) : (setMap m s).grants = s.grants := rfl
@[simp] theorem setMap_units (m : MapEngine) (s : State) : (setMap m s).units = s.units := rfl
@[simp] theorem setMap_chans (m : MapEngine) (s : State) : (setMap m s).chans = s.chans := rfl
@[simp] theorem setMap_streams (m : MapEngine) (s : State) : (setMap m s).streams = s.streams := rfl
@[simp] theorem setMap_map (m : MapEngine) (s : State) : (setMap m s).map = m := rfl
@[simp] theorem setMap_buses (m : MapEngine) (s : State) : (setMap m s).buses = s.buses := rfl
@[simp] theorem setMap_monitor (m : MapEngine) (s : State) : (setMap m s).monitor = s.monitor := rfl
@[simp] theorem setMap_trail (m : MapEngine) (s : State) : (setMap m s).trail = s.trail := rfl
@[simp] theorem setMap_spt (m : MapEngine) (s : State) : (setMap m s).spt = s.spt := rfl
@[simp] theorem setMap_replies (m : MapEngine) (s : State) : (setMap m s).replies = s.replies := rfl
@[simp] theorem setMap_miso (m : MapEngine) (s : State) : (setMap m s).miso = s.miso := rfl
@[simp] theorem setMap_moment (m : MapEngine) (s : State) : (setMap m s).moment = s.moment := rfl
@[simp] theorem setMap_pending (m : MapEngine) (s : State) : (setMap m s).pending = s.pending := rfl

@[simp] theorem advance_inReset (s : State) : (advance s).inReset = s.inReset := rfl
@[simp] theorem advance_raw (s : State) : (advance s).raw = s.raw := rfl
@[simp] theorem advance_filtered (s : State) : (advance s).filtered = s.filtered := rfl
@[simp] theorem advance_filterTimers (s : State) : (advance s).filterTimers = s.filterTimers := rfl
@[simp] theorem advance_grants (s : State) : (advance s).grants = s.grants := rfl
@[simp] theorem advance_units (s : State) : (advance s).units = s.units := rfl
@[simp] theorem advance_chans (s : State) : (advance s).chans = s.chans := rfl
@[simp] theorem advance_streams (s : State) : (advance s).streams = s.streams := rfl
@[simp] theorem advance_map (s : State) : (advance s).map = s.map := rfl
@[simp] theorem advance_buses (s : State) : (advance s).buses = s.buses := rfl
@[simp] theorem advance_monitor (s : State) : (advance s).monitor = s.monitor := rfl
@[simp] theorem advance_trail (s : State) : (advance s).trail = s.trail := rfl
@[simp] theorem advance_spt (s : State) : (advance s).spt = s.spt := rfl
@[simp] theorem advance_replies (s : State) : (advance s).replies = s.replies := rfl
@[simp] theorem advance_miso (s : State) : (advance s).miso = s.miso := rfl
@[simp] theorem advance_moment (s : State) : (advance s).moment = s.moment + 1 := rfl
@[simp] theorem advance_pending (s : State) : (advance s).pending = s.pending := rfl

/-- Reading a vector after writing one element. -/
theorem vector_get_set {α : Type} {n : Nat} (v : Vector α n) (i j : Fin n) (x : α) :
    (v.set i.val x).get j = if i = j then x else v.get j := by
  rw [Vector.get_eq_getElem, Vector.getElem_set, Vector.get_eq_getElem]
  by_cases h : i = j
  · simp [h]
  · simp [h, Fin.val_inj]

@[simp] theorem grantAt_setGrant (g : Slot) (x : Grant) (s : State) : grantAt g (setGrant g x s) = x := by
  simp [grantAt, vector_get_set]

theorem grantAt_setGrant_ne (g w : Slot) (x : Grant) (s : State) (h : g ≠ w) : grantAt w (setGrant g x s) = grantAt w s := by
  simp [grantAt, vector_get_set, h]

@[simp] theorem unitAt_setUnit (u : UnitId) (x : UnitRec) (s : State) : unitAt u (setUnit u x s) = x := by
  simp [unitAt, vector_get_set]

theorem unitAt_setUnit_ne (u w : UnitId) (x : UnitRec) (s : State) (h : u ≠ w) : unitAt w (setUnit u x s) = unitAt w s := by
  simp [unitAt, vector_get_set, h]

@[simp] theorem chanAt_setChan (c : ChanId) (x : Channel) (s : State) : chanAt c (setChan c x s) = x := by
  simp [chanAt, vector_get_set]

theorem chanAt_setChan_ne (c w : ChanId) (x : Channel) (s : State) (h : c ≠ w) : chanAt w (setChan c x s) = chanAt w s := by
  simp [chanAt, vector_get_set, h]

@[simp] theorem streamAt_setStream (k : CtxId) (x : Option Stream) (s : State) : streamAt k (setStream k x s) = x := by
  simp [streamAt, vector_get_set]

theorem streamAt_setStream_ne (k w : CtxId) (x : Option Stream) (s : State) (h : k ≠ w) : streamAt w (setStream k x s) = streamAt w s := by
  simp [streamAt, vector_get_set, h]

@[simp] theorem busAt_setBus (b : BusId) (x : Bus) (s : State) : busAt b (setBus b x s) = x := by
  cases b <;> rfl

theorem busAt_setBus_ne (b d : BusId) (x : Bus) (s : State) (h : b ≠ d) : busAt d (setBus b x s) = busAt d s := by
  cases b <;> cases d <;> first | rfl | exact absurd rfl h

@[simp] theorem repliesAt_setReplies (p : Port) (q : List Reply) (s : State) : repliesAt p (setReplies p q s) = q := by
  cases p <;> rfl

theorem repliesAt_setReplies_ne (p r : Port) (q : List Reply) (s : State) (h : p ≠ r) :
    repliesAt r (setReplies p q s) = repliesAt r s := by
  cases p <;> cases r <;> first | rfl | exact absurd rfl h

@[simp] theorem unitAt_setGrant (g : Slot) (x : Grant) (v : UnitId) (s : State) : unitAt v (setGrant g x s) = unitAt v s := rfl
@[simp] theorem chanAt_setGrant (g : Slot) (x : Grant) (d : ChanId) (s : State) : chanAt d (setGrant g x s) = chanAt d s := rfl
@[simp] theorem streamAt_setGrant (g : Slot) (x : Grant) (j : CtxId) (s : State) : streamAt j (setGrant g x s) = streamAt j s := rfl
@[simp] theorem busAt_setGrant (g : Slot) (x : Grant) (e : BusId) (s : State) : busAt e (setGrant g x s) = busAt e s := rfl
@[simp] theorem repliesAt_setGrant (g : Slot) (x : Grant) (r : Port) (s : State) : repliesAt r (setGrant g x s) = repliesAt r s := rfl

@[simp] theorem grantAt_setUnit (u : UnitId) (x : UnitRec) (g : Slot) (s : State) : grantAt g (setUnit u x s) = grantAt g s := rfl
@[simp] theorem chanAt_setUnit (u : UnitId) (x : UnitRec) (d : ChanId) (s : State) : chanAt d (setUnit u x s) = chanAt d s := rfl
@[simp] theorem streamAt_setUnit (u : UnitId) (x : UnitRec) (j : CtxId) (s : State) : streamAt j (setUnit u x s) = streamAt j s := rfl
@[simp] theorem busAt_setUnit (u : UnitId) (x : UnitRec) (e : BusId) (s : State) : busAt e (setUnit u x s) = busAt e s := rfl
@[simp] theorem repliesAt_setUnit (u : UnitId) (x : UnitRec) (r : Port) (s : State) : repliesAt r (setUnit u x s) = repliesAt r s := rfl

@[simp] theorem grantAt_setChan (c : ChanId) (x : Channel) (g : Slot) (s : State) : grantAt g (setChan c x s) = grantAt g s := rfl
@[simp] theorem unitAt_setChan (c : ChanId) (x : Channel) (v : UnitId) (s : State) : unitAt v (setChan c x s) = unitAt v s := rfl
@[simp] theorem streamAt_setChan (c : ChanId) (x : Channel) (j : CtxId) (s : State) : streamAt j (setChan c x s) = streamAt j s := rfl
@[simp] theorem busAt_setChan (c : ChanId) (x : Channel) (e : BusId) (s : State) : busAt e (setChan c x s) = busAt e s := rfl
@[simp] theorem repliesAt_setChan (c : ChanId) (x : Channel) (r : Port) (s : State) : repliesAt r (setChan c x s) = repliesAt r s := rfl

@[simp] theorem grantAt_setStream (k : CtxId) (x : Option Stream) (g : Slot) (s : State) : grantAt g (setStream k x s) = grantAt g s := rfl
@[simp] theorem unitAt_setStream (k : CtxId) (x : Option Stream) (v : UnitId) (s : State) : unitAt v (setStream k x s) = unitAt v s := rfl
@[simp] theorem chanAt_setStream (k : CtxId) (x : Option Stream) (d : ChanId) (s : State) : chanAt d (setStream k x s) = chanAt d s := rfl
@[simp] theorem busAt_setStream (k : CtxId) (x : Option Stream) (e : BusId) (s : State) : busAt e (setStream k x s) = busAt e s := rfl
@[simp] theorem repliesAt_setStream (k : CtxId) (x : Option Stream) (r : Port) (s : State) : repliesAt r (setStream k x s) = repliesAt r s := rfl

@[simp] theorem grantAt_setBus (b : BusId) (x : Bus) (g : Slot) (s : State) : grantAt g (setBus b x s) = grantAt g s := rfl
@[simp] theorem unitAt_setBus (b : BusId) (x : Bus) (v : UnitId) (s : State) : unitAt v (setBus b x s) = unitAt v s := rfl
@[simp] theorem chanAt_setBus (b : BusId) (x : Bus) (d : ChanId) (s : State) : chanAt d (setBus b x s) = chanAt d s := rfl
@[simp] theorem streamAt_setBus (b : BusId) (x : Bus) (j : CtxId) (s : State) : streamAt j (setBus b x s) = streamAt j s := rfl
@[simp] theorem repliesAt_setBus (b : BusId) (x : Bus) (r : Port) (s : State) : repliesAt r (setBus b x s) = repliesAt r s := rfl

@[simp] theorem grantAt_setReplies (p : Port) (q : List Reply) (g : Slot) (s : State) : grantAt g (setReplies p q s) = grantAt g s := rfl
@[simp] theorem unitAt_setReplies (p : Port) (q : List Reply) (v : UnitId) (s : State) : unitAt v (setReplies p q s) = unitAt v s := rfl
@[simp] theorem chanAt_setReplies (p : Port) (q : List Reply) (d : ChanId) (s : State) : chanAt d (setReplies p q s) = chanAt d s := rfl
@[simp] theorem streamAt_setReplies (p : Port) (q : List Reply) (j : CtxId) (s : State) : streamAt j (setReplies p q s) = streamAt j s := rfl
@[simp] theorem busAt_setReplies (p : Port) (q : List Reply) (e : BusId) (s : State) : busAt e (setReplies p q s) = busAt e s := rfl

@[simp] theorem grantAt_setMap (m : MapEngine) (g : Slot) (s : State) : grantAt g (setMap m s) = grantAt g s := rfl
@[simp] theorem unitAt_setMap (m : MapEngine) (v : UnitId) (s : State) : unitAt v (setMap m s) = unitAt v s := rfl
@[simp] theorem chanAt_setMap (m : MapEngine) (d : ChanId) (s : State) : chanAt d (setMap m s) = chanAt d s := rfl
@[simp] theorem streamAt_setMap (m : MapEngine) (j : CtxId) (s : State) : streamAt j (setMap m s) = streamAt j s := rfl
@[simp] theorem busAt_setMap (m : MapEngine) (e : BusId) (s : State) : busAt e (setMap m s) = busAt e s := rfl
@[simp] theorem repliesAt_setMap (m : MapEngine) (r : Port) (s : State) : repliesAt r (setMap m s) = repliesAt r s := rfl

@[simp] theorem grantAt_advance (g : Slot) (s : State) : grantAt g (advance s) = grantAt g s := rfl
@[simp] theorem unitAt_advance (v : UnitId) (s : State) : unitAt v (advance s) = unitAt v s := rfl
@[simp] theorem chanAt_advance (d : ChanId) (s : State) : chanAt d (advance s) = chanAt d s := rfl
@[simp] theorem streamAt_advance (j : CtxId) (s : State) : streamAt j (advance s) = streamAt j s := rfl
@[simp] theorem busAt_advance (e : BusId) (s : State) : busAt e (advance s) = busAt e s := rfl
@[simp] theorem repliesAt_advance (r : Port) (s : State) : repliesAt r (advance s) = repliesAt r s := rfl

end Sys2Proof.Machine
end

