-- ==== Sys2Proof/Laws/Frames.lean ====
section
/-! SUPPORT. Frames of the shared operations: the fields each one leaves as they were. -/

namespace Sys2Proof.Machine

@[simp] theorem writeRecord_inReset (a : Option Port) (b : Option ChanId) (c : Option Slot) (u : Option UnitId) (e : Detail) (s : State) : (writeRecord a b c u e s).inReset = s.inReset := rfl
@[simp] theorem writeRecord_raw (a : Option Port) (b : Option ChanId) (c : Option Slot) (u : Option UnitId) (e : Detail) (s : State) : (writeRecord a b c u e s).raw = s.raw := rfl
@[simp] theorem writeRecord_filtered (a : Option Port) (b : Option ChanId) (c : Option Slot) (u : Option UnitId) (e : Detail) (s : State) : (writeRecord a b c u e s).filtered = s.filtered := rfl
@[simp] theorem writeRecord_filterTimers (a : Option Port) (b : Option ChanId) (c : Option Slot) (u : Option UnitId) (e : Detail) (s : State) : (writeRecord a b c u e s).filterTimers = s.filterTimers := rfl
@[simp] theorem writeRecord_grants (a : Option Port) (b : Option ChanId) (c : Option Slot) (u : Option UnitId) (e : Detail) (s : State) : (writeRecord a b c u e s).grants = s.grants := rfl
@[simp] theorem writeRecord_grantAt (a : Option Port) (b : Option ChanId) (c : Option Slot) (u : Option UnitId) (e : Detail) (i : Slot) (s : State) : grantAt i (writeRecord a b c u e s) = grantAt i s := by
  simp [grantAt]
@[simp] theorem writeRecord_units (a : Option Port) (b : Option ChanId) (c : Option Slot) (u : Option UnitId) (e : Detail) (s : State) : (writeRecord a b c u e s).units = s.units := rfl
@[simp] theorem writeRecord_unitAt (a : Option Port) (b : Option ChanId) (c : Option Slot) (u : Option UnitId) (e : Detail) (v : UnitId) (s : State) : unitAt v (writeRecord a b c u e s) = unitAt v s := by
  simp [unitAt]
@[simp] theorem writeRecord_chans (a : Option Port) (b : Option ChanId) (c : Option Slot) (u : Option UnitId) (e : Detail) (s : State) : (writeRecord a b c u e s).chans = s.chans := rfl
@[simp] theorem writeRecord_chanAt (a : Option Port) (b : Option ChanId) (c : Option Slot) (u : Option UnitId) (e : Detail) (d : ChanId) (s : State) : chanAt d (writeRecord a b c u e s) = chanAt d s := by
  simp [chanAt]
@[simp] theorem writeRecord_streams (a : Option Port) (b : Option ChanId) (c : Option Slot) (u : Option UnitId) (e : Detail) (s : State) : (writeRecord a b c u e s).streams = s.streams := rfl
@[simp] theorem writeRecord_streamAt (a : Option Port) (b : Option ChanId) (c : Option Slot) (u : Option UnitId) (e : Detail) (j : CtxId) (s : State) : streamAt j (writeRecord a b c u e s) = streamAt j s := by
  simp [streamAt]
@[simp] theorem writeRecord_map (a : Option Port) (b : Option ChanId) (c : Option Slot) (u : Option UnitId) (e : Detail) (s : State) : (writeRecord a b c u e s).map = s.map := rfl
@[simp] theorem writeRecord_buses (a : Option Port) (b : Option ChanId) (c : Option Slot) (u : Option UnitId) (e : Detail) (s : State) : (writeRecord a b c u e s).buses = s.buses := rfl
@[simp] theorem writeRecord_busAt (a : Option Port) (b : Option ChanId) (c : Option Slot) (u : Option UnitId) (e : Detail) (e' : BusId) (s : State) : busAt e' (writeRecord a b c u e s) = busAt e' s := by
  simp [busAt]
@[simp] theorem writeRecord_spt (a : Option Port) (b : Option ChanId) (c : Option Slot) (u : Option UnitId) (e : Detail) (s : State) : (writeRecord a b c u e s).spt = s.spt := rfl
@[simp] theorem writeRecord_replies (a : Option Port) (b : Option ChanId) (c : Option Slot) (u : Option UnitId) (e : Detail) (s : State) : (writeRecord a b c u e s).replies = s.replies := rfl
@[simp] theorem writeRecord_repliesAt (a : Option Port) (b : Option ChanId) (c : Option Slot) (u : Option UnitId) (e : Detail) (p' : Port) (s : State) : repliesAt p' (writeRecord a b c u e s) = repliesAt p' s := by
  simp [repliesAt]
@[simp] theorem writeRecord_miso (a : Option Port) (b : Option ChanId) (c : Option Slot) (u : Option UnitId) (e : Detail) (s : State) : (writeRecord a b c u e s).miso = s.miso := rfl
@[simp] theorem writeRecord_moment (a : Option Port) (b : Option ChanId) (c : Option Slot) (u : Option UnitId) (e : Detail) (s : State) : (writeRecord a b c u e s).moment = s.moment := rfl
@[simp] theorem writeRecord_pending (a : Option Port) (b : Option ChanId) (c : Option Slot) (u : Option UnitId) (e : Detail) (s : State) : (writeRecord a b c u e s).pending = s.pending := rfl

@[simp] theorem writeChanRecord_inReset (c : ChanId) (g : Option Slot) (u : Option UnitId) (e : Detail) (s : State) : (writeChanRecord c g u e s).inReset = s.inReset := rfl
@[simp] theorem writeChanRecord_raw (c : ChanId) (g : Option Slot) (u : Option UnitId) (e : Detail) (s : State) : (writeChanRecord c g u e s).raw = s.raw := rfl
@[simp] theorem writeChanRecord_filtered (c : ChanId) (g : Option Slot) (u : Option UnitId) (e : Detail) (s : State) : (writeChanRecord c g u e s).filtered = s.filtered := rfl
@[simp] theorem writeChanRecord_filterTimers (c : ChanId) (g : Option Slot) (u : Option UnitId) (e : Detail) (s : State) : (writeChanRecord c g u e s).filterTimers = s.filterTimers := rfl
@[simp] theorem writeChanRecord_grants (c : ChanId) (g : Option Slot) (u : Option UnitId) (e : Detail) (s : State) : (writeChanRecord c g u e s).grants = s.grants := rfl
@[simp] theorem writeChanRecord_grantAt (c : ChanId) (g : Option Slot) (u : Option UnitId) (e : Detail) (i : Slot) (s : State) : grantAt i (writeChanRecord c g u e s) = grantAt i s := by
  simp [grantAt]
@[simp] theorem writeChanRecord_units (c : ChanId) (g : Option Slot) (u : Option UnitId) (e : Detail) (s : State) : (writeChanRecord c g u e s).units = s.units := rfl
@[simp] theorem writeChanRecord_unitAt (c : ChanId) (g : Option Slot) (u : Option UnitId) (e : Detail) (v : UnitId) (s : State) : unitAt v (writeChanRecord c g u e s) = unitAt v s := by
  simp [unitAt]
@[simp] theorem writeChanRecord_chans (c : ChanId) (g : Option Slot) (u : Option UnitId) (e : Detail) (s : State) : (writeChanRecord c g u e s).chans = s.chans := rfl
@[simp] theorem writeChanRecord_chanAt (c : ChanId) (g : Option Slot) (u : Option UnitId) (e : Detail) (d : ChanId) (s : State) : chanAt d (writeChanRecord c g u e s) = chanAt d s := by
  simp [chanAt]
@[simp] theorem writeChanRecord_streams (c : ChanId) (g : Option Slot) (u : Option UnitId) (e : Detail) (s : State) : (writeChanRecord c g u e s).streams = s.streams := rfl
@[simp] theorem writeChanRecord_streamAt (c : ChanId) (g : Option Slot) (u : Option UnitId) (e : Detail) (j : CtxId) (s : State) : streamAt j (writeChanRecord c g u e s) = streamAt j s := by
  simp [streamAt]
@[simp] theorem writeChanRecord_map (c : ChanId) (g : Option Slot) (u : Option UnitId) (e : Detail) (s : State) : (writeChanRecord c g u e s).map = s.map := rfl
@[simp] theorem writeChanRecord_buses (c : ChanId) (g : Option Slot) (u : Option UnitId) (e : Detail) (s : State) : (writeChanRecord c g u e s).buses = s.buses := rfl
@[simp] theorem writeChanRecord_busAt (c : ChanId) (g : Option Slot) (u : Option UnitId) (e : Detail) (e' : BusId) (s : State) : busAt e' (writeChanRecord c g u e s) = busAt e' s := by
  simp [busAt]
@[simp] theorem writeChanRecord_spt (c : ChanId) (g : Option Slot) (u : Option UnitId) (e : Detail) (s : State) : (writeChanRecord c g u e s).spt = s.spt := rfl
@[simp] theorem writeChanRecord_replies (c : ChanId) (g : Option Slot) (u : Option UnitId) (e : Detail) (s : State) : (writeChanRecord c g u e s).replies = s.replies := rfl
@[simp] theorem writeChanRecord_repliesAt (c : ChanId) (g : Option Slot) (u : Option UnitId) (e : Detail) (p' : Port) (s : State) : repliesAt p' (writeChanRecord c g u e s) = repliesAt p' s := by
  simp [repliesAt]
@[simp] theorem writeChanRecord_miso (c : ChanId) (g : Option Slot) (u : Option UnitId) (e : Detail) (s : State) : (writeChanRecord c g u e s).miso = s.miso := rfl
@[simp] theorem writeChanRecord_moment (c : ChanId) (g : Option Slot) (u : Option UnitId) (e : Detail) (s : State) : (writeChanRecord c g u e s).moment = s.moment := rfl
@[simp] theorem writeChanRecord_pending (c : ChanId) (g : Option Slot) (u : Option UnitId) (e : Detail) (s : State) : (writeChanRecord c g u e s).pending = s.pending := rfl

@[simp] theorem freezeTrigger_inReset (k : FreezeCause) (s : State) : (freezeTrigger k s).inReset = s.inReset := by unfold freezeTrigger; split <;> rfl
@[simp] theorem freezeTrigger_raw (k : FreezeCause) (s : State) : (freezeTrigger k s).raw = s.raw := by unfold freezeTrigger; split <;> rfl
@[simp] theorem freezeTrigger_filtered (k : FreezeCause) (s : State) : (freezeTrigger k s).filtered = s.filtered := by unfold freezeTrigger; split <;> rfl
@[simp] theorem freezeTrigger_filterTimers (k : FreezeCause) (s : State) : (freezeTrigger k s).filterTimers = s.filterTimers := by unfold freezeTrigger; split <;> rfl
@[simp] theorem freezeTrigger_grants (k : FreezeCause) (s : State) : (freezeTrigger k s).grants = s.grants := by unfold freezeTrigger; split <;> rfl
@[simp] theorem freezeTrigger_grantAt (k : FreezeCause) (i : Slot) (s : State) : grantAt i (freezeTrigger k s) = grantAt i s := by
  simp [grantAt]
@[simp] theorem freezeTrigger_units (k : FreezeCause) (s : State) : (freezeTrigger k s).units = s.units := by unfold freezeTrigger; split <;> rfl
@[simp] theorem freezeTrigger_unitAt (k : FreezeCause) (v : UnitId) (s : State) : unitAt v (freezeTrigger k s) = unitAt v s := by
  simp [unitAt]
@[simp] theorem freezeTrigger_chans (k : FreezeCause) (s : State) : (freezeTrigger k s).chans = s.chans := by unfold freezeTrigger; split <;> rfl
@[simp] theorem freezeTrigger_chanAt (k : FreezeCause) (d : ChanId) (s : State) : chanAt d (freezeTrigger k s) = chanAt d s := by
  simp [chanAt]
@[simp] theorem freezeTrigger_streams (k : FreezeCause) (s : State) : (freezeTrigger k s).streams = s.streams := by unfold freezeTrigger; split <;> rfl
@[simp] theorem freezeTrigger_streamAt (k : FreezeCause) (j : CtxId) (s : State) : streamAt j (freezeTrigger k s) = streamAt j s := by
  simp [streamAt]
@[simp] theorem freezeTrigger_map (k : FreezeCause) (s : State) : (freezeTrigger k s).map = s.map := by unfold freezeTrigger; split <;> rfl
@[simp] theorem freezeTrigger_buses (k : FreezeCause) (s : State) : (freezeTrigger k s).buses = s.buses := by unfold freezeTrigger; split <;> rfl
@[simp] theorem freezeTrigger_busAt (k : FreezeCause) (e' : BusId) (s : State) : busAt e' (freezeTrigger k s) = busAt e' s := by
  simp [busAt]
@[simp] theorem freezeTrigger_spt (k : FreezeCause) (s : State) : (freezeTrigger k s).spt = s.spt := by unfold freezeTrigger; split <;> rfl
@[simp] theorem freezeTrigger_replies (k : FreezeCause) (s : State) : (freezeTrigger k s).replies = s.replies := by unfold freezeTrigger; split <;> rfl
@[simp] theorem freezeTrigger_repliesAt (k : FreezeCause) (p' : Port) (s : State) : repliesAt p' (freezeTrigger k s) = repliesAt p' s := by
  simp [repliesAt]
@[simp] theorem freezeTrigger_miso (k : FreezeCause) (s : State) : (freezeTrigger k s).miso = s.miso := by unfold freezeTrigger; split <;> rfl
@[simp] theorem freezeTrigger_moment (k : FreezeCause) (s : State) : (freezeTrigger k s).moment = s.moment := by unfold freezeTrigger; split <;> rfl
@[simp] theorem freezeTrigger_pending (k : FreezeCause) (s : State) : (freezeTrigger k s).pending = s.pending := by unfold freezeTrigger; split <;> rfl

@[simp] theorem addCounts_inReset (f : Fin 8 → Nat) (s : State) : (addCounts f s).inReset = s.inReset := by unfold addCounts; dsimp only; split <;> simp
@[simp] theorem addCounts_raw (f : Fin 8 → Nat) (s : State) : (addCounts f s).raw = s.raw := by unfold addCounts; dsimp only; split <;> simp
@[simp] theorem addCounts_filtered (f : Fin 8 → Nat) (s : State) : (addCounts f s).filtered = s.filtered := by unfold addCounts; dsimp only; split <;> simp
@[simp] theorem addCounts_filterTimers (f : Fin 8 → Nat) (s : State) : (addCounts f s).filterTimers = s.filterTimers := by unfold addCounts; dsimp only; split <;> simp
@[simp] theorem addCounts_grants (f : Fin 8 → Nat) (s : State) : (addCounts f s).grants = s.grants := by unfold addCounts; dsimp only; split <;> simp
@[simp] theorem addCounts_grantAt (f : Fin 8 → Nat) (i : Slot) (s : State) : grantAt i (addCounts f s) = grantAt i s := by
  simp [grantAt]
@[simp] theorem addCounts_units (f : Fin 8 → Nat) (s : State) : (addCounts f s).units = s.units := by unfold addCounts; dsimp only; split <;> simp
@[simp] theorem addCounts_unitAt (f : Fin 8 → Nat) (v : UnitId) (s : State) : unitAt v (addCounts f s) = unitAt v s := by
  simp [unitAt]
@[simp] theorem addCounts_chans (f : Fin 8 → Nat) (s : State) : (addCounts f s).chans = s.chans := by unfold addCounts; dsimp only; split <;> simp
@[simp] theorem addCounts_chanAt (f : Fin 8 → Nat) (d : ChanId) (s : State) : chanAt d (addCounts f s) = chanAt d s := by
  simp [chanAt]
@[simp] theorem addCounts_streams (f : Fin 8 → Nat) (s : State) : (addCounts f s).streams = s.streams := by unfold addCounts; dsimp only; split <;> simp
@[simp] theorem addCounts_streamAt (f : Fin 8 → Nat) (j : CtxId) (s : State) : streamAt j (addCounts f s) = streamAt j s := by
  simp [streamAt]
@[simp] theorem addCounts_map (f : Fin 8 → Nat) (s : State) : (addCounts f s).map = s.map := by unfold addCounts; dsimp only; split <;> simp
@[simp] theorem addCounts_buses (f : Fin 8 → Nat) (s : State) : (addCounts f s).buses = s.buses := by unfold addCounts; dsimp only; split <;> simp
@[simp] theorem addCounts_busAt (f : Fin 8 → Nat) (e' : BusId) (s : State) : busAt e' (addCounts f s) = busAt e' s := by
  simp [busAt]
@[simp] theorem addCounts_spt (f : Fin 8 → Nat) (s : State) : (addCounts f s).spt = s.spt := by unfold addCounts; dsimp only; split <;> simp
@[simp] theorem addCounts_replies (f : Fin 8 → Nat) (s : State) : (addCounts f s).replies = s.replies := by unfold addCounts; dsimp only; split <;> simp
@[simp] theorem addCounts_repliesAt (f : Fin 8 → Nat) (p' : Port) (s : State) : repliesAt p' (addCounts f s) = repliesAt p' s := by
  simp [repliesAt]
@[simp] theorem addCounts_miso (f : Fin 8 → Nat) (s : State) : (addCounts f s).miso = s.miso := by unfold addCounts; dsimp only; split <;> simp
@[simp] theorem addCounts_moment (f : Fin 8 → Nat) (s : State) : (addCounts f s).moment = s.moment := by unfold addCounts; dsimp only; split <;> simp
@[simp] theorem addCounts_pending (f : Fin 8 → Nat) (s : State) : (addCounts f s).pending = s.pending := by unfold addCounts; dsimp only; split <;> simp

@[simp] theorem report_inReset (r : Report) (s : State) : (report r s).inReset = s.inReset := by unfold report; split <;> simp
@[simp] theorem report_raw (r : Report) (s : State) : (report r s).raw = s.raw := by unfold report; split <;> simp
@[simp] theorem report_filtered (r : Report) (s : State) : (report r s).filtered = s.filtered := by unfold report; split <;> simp
@[simp] theorem report_filterTimers (r : Report) (s : State) : (report r s).filterTimers = s.filterTimers := by unfold report; split <;> simp
@[simp] theorem report_grants (r : Report) (s : State) : (report r s).grants = s.grants := by unfold report; split <;> simp
@[simp] theorem report_grantAt (r : Report) (i : Slot) (s : State) : grantAt i (report r s) = grantAt i s := by
  simp [grantAt]
@[simp] theorem report_units (r : Report) (s : State) : (report r s).units = s.units := by unfold report; split <;> simp
@[simp] theorem report_unitAt (r : Report) (v : UnitId) (s : State) : unitAt v (report r s) = unitAt v s := by
  simp [unitAt]
@[simp] theorem report_chans (r : Report) (s : State) : (report r s).chans = s.chans := by unfold report; split <;> simp
@[simp] theorem report_chanAt (r : Report) (d : ChanId) (s : State) : chanAt d (report r s) = chanAt d s := by
  simp [chanAt]
@[simp] theorem report_streams (r : Report) (s : State) : (report r s).streams = s.streams := by unfold report; split <;> simp
@[simp] theorem report_streamAt (r : Report) (j : CtxId) (s : State) : streamAt j (report r s) = streamAt j s := by
  simp [streamAt]
@[simp] theorem report_map (r : Report) (s : State) : (report r s).map = s.map := by unfold report; split <;> simp
@[simp] theorem report_buses (r : Report) (s : State) : (report r s).buses = s.buses := by unfold report; split <;> simp
@[simp] theorem report_busAt (r : Report) (e' : BusId) (s : State) : busAt e' (report r s) = busAt e' s := by
  simp [busAt]
@[simp] theorem report_spt (r : Report) (s : State) : (report r s).spt = s.spt := by unfold report; split <;> simp
@[simp] theorem report_replies (r : Report) (s : State) : (report r s).replies = s.replies := by unfold report; split <;> simp
@[simp] theorem report_repliesAt (r : Report) (p' : Port) (s : State) : repliesAt p' (report r s) = repliesAt p' s := by
  simp [repliesAt]
@[simp] theorem report_miso (r : Report) (s : State) : (report r s).miso = s.miso := by unfold report; split <;> simp
@[simp] theorem report_moment (r : Report) (s : State) : (report r s).moment = s.moment := by unfold report; split <;> simp
@[simp] theorem report_pending (r : Report) (s : State) : (report r s).pending = s.pending := by unfold report; split <;> simp

@[simp] theorem escalateGrant_inReset (g : Slot) (s : State) : (escalateGrant g s).inReset = s.inReset := by
  unfold escalateGrant; dsimp only; repeat' split
  all_goals simp
@[simp] theorem escalateGrant_raw (g : Slot) (s : State) : (escalateGrant g s).raw = s.raw := by
  unfold escalateGrant; dsimp only; repeat' split
  all_goals simp
@[simp] theorem escalateGrant_filtered (g : Slot) (s : State) : (escalateGrant g s).filtered = s.filtered := by
  unfold escalateGrant; dsimp only; repeat' split
  all_goals simp
@[simp] theorem escalateGrant_filterTimers (g : Slot) (s : State) : (escalateGrant g s).filterTimers = s.filterTimers := by
  unfold escalateGrant; dsimp only; repeat' split
  all_goals simp
@[simp] theorem escalateGrant_grants (g : Slot) (s : State) : (escalateGrant g s).grants = s.grants := by
  unfold escalateGrant; dsimp only; repeat' split
  all_goals simp
@[simp] theorem escalateGrant_grantAt (g : Slot) (i : Slot) (s : State) : grantAt i (escalateGrant g s) = grantAt i s := by
  simp [grantAt]
@[simp] theorem escalateGrant_units (g : Slot) (s : State) : (escalateGrant g s).units = s.units := by
  unfold escalateGrant; dsimp only; repeat' split
  all_goals simp
@[simp] theorem escalateGrant_unitAt (g : Slot) (v : UnitId) (s : State) : unitAt v (escalateGrant g s) = unitAt v s := by
  simp [unitAt]
@[simp] theorem escalateGrant_chans (g : Slot) (s : State) : (escalateGrant g s).chans = s.chans := by
  unfold escalateGrant; dsimp only; repeat' split
  all_goals simp
@[simp] theorem escalateGrant_chanAt (g : Slot) (d : ChanId) (s : State) : chanAt d (escalateGrant g s) = chanAt d s := by
  simp [chanAt]
@[simp] theorem escalateGrant_streams (g : Slot) (s : State) : (escalateGrant g s).streams = s.streams := by
  unfold escalateGrant; dsimp only; repeat' split
  all_goals simp
@[simp] theorem escalateGrant_streamAt (g : Slot) (j : CtxId) (s : State) : streamAt j (escalateGrant g s) = streamAt j s := by
  simp [streamAt]
@[simp] theorem escalateGrant_map (g : Slot) (s : State) : (escalateGrant g s).map = s.map := by
  unfold escalateGrant; dsimp only; repeat' split
  all_goals simp
@[simp] theorem escalateGrant_buses (g : Slot) (s : State) : (escalateGrant g s).buses = s.buses := by
  unfold escalateGrant; dsimp only; repeat' split
  all_goals simp
@[simp] theorem escalateGrant_busAt (g : Slot) (e' : BusId) (s : State) : busAt e' (escalateGrant g s) = busAt e' s := by
  simp [busAt]
@[simp] theorem escalateGrant_spt (g : Slot) (s : State) : (escalateGrant g s).spt = s.spt := by
  unfold escalateGrant; dsimp only; repeat' split
  all_goals simp
@[simp] theorem escalateGrant_replies (g : Slot) (s : State) : (escalateGrant g s).replies = s.replies := by
  unfold escalateGrant; dsimp only; repeat' split
  all_goals simp
@[simp] theorem escalateGrant_repliesAt (g : Slot) (p' : Port) (s : State) : repliesAt p' (escalateGrant g s) = repliesAt p' s := by
  simp [repliesAt]
@[simp] theorem escalateGrant_miso (g : Slot) (s : State) : (escalateGrant g s).miso = s.miso := by
  unfold escalateGrant; dsimp only; repeat' split
  all_goals simp
@[simp] theorem escalateGrant_moment (g : Slot) (s : State) : (escalateGrant g s).moment = s.moment := by
  unfold escalateGrant; dsimp only; repeat' split
  all_goals simp
@[simp] theorem escalateGrant_pending (g : Slot) (s : State) : (escalateGrant g s).pending = s.pending := by
  unfold escalateGrant; dsimp only; repeat' split
  all_goals simp

@[simp] theorem handBusFault_inReset (s : State) : (handBusFault s).inReset = s.inReset := rfl
@[simp] theorem handBusFault_raw (s : State) : (handBusFault s).raw = s.raw := rfl
@[simp] theorem handBusFault_filtered (s : State) : (handBusFault s).filtered = s.filtered := rfl
@[simp] theorem handBusFault_filterTimers (s : State) : (handBusFault s).filterTimers = s.filterTimers := rfl
@[simp] theorem handBusFault_grants (s : State) : (handBusFault s).grants = s.grants := rfl
@[simp] theorem handBusFault_grantAt (i : Slot) (s : State) : grantAt i (handBusFault s) = grantAt i s := by
  simp [grantAt]
@[simp] theorem handBusFault_units (s : State) : (handBusFault s).units = s.units := rfl
@[simp] theorem handBusFault_unitAt (v : UnitId) (s : State) : unitAt v (handBusFault s) = unitAt v s := by
  simp [unitAt]
@[simp] theorem handBusFault_chans (s : State) : (handBusFault s).chans = s.chans := rfl
@[simp] theorem handBusFault_chanAt (d : ChanId) (s : State) : chanAt d (handBusFault s) = chanAt d s := by
  simp [chanAt]
@[simp] theorem handBusFault_streams (s : State) : (handBusFault s).streams = s.streams := rfl
@[simp] theorem handBusFault_streamAt (j : CtxId) (s : State) : streamAt j (handBusFault s) = streamAt j s := by
  simp [streamAt]
@[simp] theorem handBusFault_map (s : State) : (handBusFault s).map = s.map := rfl
@[simp] theorem handBusFault_buses (s : State) : (handBusFault s).buses = s.buses := rfl
@[simp] theorem handBusFault_busAt (e' : BusId) (s : State) : busAt e' (handBusFault s) = busAt e' s := by
  simp [busAt]
@[simp] theorem handBusFault_trail (s : State) : (handBusFault s).trail = s.trail := rfl
@[simp] theorem handBusFault_spt (s : State) : (handBusFault s).spt = s.spt := rfl
@[simp] theorem handBusFault_replies (s : State) : (handBusFault s).replies = s.replies := rfl
@[simp] theorem handBusFault_repliesAt (p' : Port) (s : State) : repliesAt p' (handBusFault s) = repliesAt p' s := by
  simp [repliesAt]
@[simp] theorem handBusFault_miso (s : State) : (handBusFault s).miso = s.miso := rfl
@[simp] theorem handBusFault_moment (s : State) : (handBusFault s).moment = s.moment := rfl
@[simp] theorem handBusFault_pending (s : State) : (handBusFault s).pending = s.pending := rfl

@[simp] theorem haltEntry_inReset (c : ChanId) (k : HaltCause) (s : State) : (haltEntry c k s).inReset = s.inReset := by unfold haltEntry; dsimp only; split <;> simp
@[simp] theorem haltEntry_raw (c : ChanId) (k : HaltCause) (s : State) : (haltEntry c k s).raw = s.raw := by unfold haltEntry; dsimp only; split <;> simp
@[simp] theorem haltEntry_filtered (c : ChanId) (k : HaltCause) (s : State) : (haltEntry c k s).filtered = s.filtered := by unfold haltEntry; dsimp only; split <;> simp
@[simp] theorem haltEntry_filterTimers (c : ChanId) (k : HaltCause) (s : State) : (haltEntry c k s).filterTimers = s.filterTimers := by unfold haltEntry; dsimp only; split <;> simp
@[simp] theorem haltEntry_grants (c : ChanId) (k : HaltCause) (s : State) : (haltEntry c k s).grants = s.grants := by unfold haltEntry; dsimp only; split <;> simp
@[simp] theorem haltEntry_grantAt (c : ChanId) (k : HaltCause) (i : Slot) (s : State) : grantAt i (haltEntry c k s) = grantAt i s := by
  simp [grantAt]
@[simp] theorem haltEntry_units (c : ChanId) (k : HaltCause) (s : State) : (haltEntry c k s).units = s.units := by unfold haltEntry; dsimp only; split <;> simp
@[simp] theorem haltEntry_unitAt (c : ChanId) (k : HaltCause) (v : UnitId) (s : State) : unitAt v (haltEntry c k s) = unitAt v s := by
  simp [unitAt]
@[simp] theorem haltEntry_streams (c : ChanId) (k : HaltCause) (s : State) : (haltEntry c k s).streams = s.streams := by unfold haltEntry; dsimp only; split <;> simp
@[simp] theorem haltEntry_streamAt (c : ChanId) (k : HaltCause) (j : CtxId) (s : State) : streamAt j (haltEntry c k s) = streamAt j s := by
  simp [streamAt]
@[simp] theorem haltEntry_map (c : ChanId) (k : HaltCause) (s : State) : (haltEntry c k s).map = s.map := by unfold haltEntry; dsimp only; split <;> simp
@[simp] theorem haltEntry_buses (c : ChanId) (k : HaltCause) (s : State) : (haltEntry c k s).buses = s.buses := by unfold haltEntry; dsimp only; split <;> simp
@[simp] theorem haltEntry_busAt (c : ChanId) (k : HaltCause) (e' : BusId) (s : State) : busAt e' (haltEntry c k s) = busAt e' s := by
  simp [busAt]
@[simp] theorem haltEntry_monitor (c : ChanId) (k : HaltCause) (s : State) : (haltEntry c k s).monitor = s.monitor := by unfold haltEntry; dsimp only; split <;> simp
@[simp] theorem haltEntry_trail (c : ChanId) (k : HaltCause) (s : State) : (haltEntry c k s).trail = s.trail := by unfold haltEntry; dsimp only; split <;> simp
@[simp] theorem haltEntry_spt (c : ChanId) (k : HaltCause) (s : State) : (haltEntry c k s).spt = s.spt := by unfold haltEntry; dsimp only; split <;> simp
@[simp] theorem haltEntry_replies (c : ChanId) (k : HaltCause) (s : State) : (haltEntry c k s).replies = s.replies := by unfold haltEntry; dsimp only; split <;> simp
@[simp] theorem haltEntry_repliesAt (c : ChanId) (k : HaltCause) (p' : Port) (s : State) : repliesAt p' (haltEntry c k s) = repliesAt p' s := by
  simp [repliesAt]
@[simp] theorem haltEntry_miso (c : ChanId) (k : HaltCause) (s : State) : (haltEntry c k s).miso = s.miso := by unfold haltEntry; dsimp only; split <;> simp
@[simp] theorem haltEntry_moment (c : ChanId) (k : HaltCause) (s : State) : (haltEntry c k s).moment = s.moment := by unfold haltEntry; dsimp only; split <;> simp
@[simp] theorem haltEntry_pending (c : ChanId) (k : HaltCause) (s : State) : (haltEntry c k s).pending = s.pending := by unfold haltEntry; dsimp only; split <;> simp

@[simp] theorem offerReply_inReset (r : Reply) (a : Bool) (s : State) : (offerReply r a s).inReset = s.inReset := by
  unfold offerReply; dsimp only; repeat' split
  all_goals simp [pushReply]
@[simp] theorem offerReply_raw (r : Reply) (a : Bool) (s : State) : (offerReply r a s).raw = s.raw := by
  unfold offerReply; dsimp only; repeat' split
  all_goals simp [pushReply]
@[simp] theorem offerReply_filtered (r : Reply) (a : Bool) (s : State) : (offerReply r a s).filtered = s.filtered := by
  unfold offerReply; dsimp only; repeat' split
  all_goals simp [pushReply]
@[simp] theorem offerReply_filterTimers (r : Reply) (a : Bool) (s : State) : (offerReply r a s).filterTimers = s.filterTimers := by
  unfold offerReply; dsimp only; repeat' split
  all_goals simp [pushReply]
@[simp] theorem offerReply_grants (r : Reply) (a : Bool) (s : State) : (offerReply r a s).grants = s.grants := by
  unfold offerReply; dsimp only; repeat' split
  all_goals simp [pushReply]
@[simp] theorem offerReply_grantAt (r : Reply) (a : Bool) (i : Slot) (s : State) : grantAt i (offerReply r a s) = grantAt i s := by
  simp [grantAt]
@[simp] theorem offerReply_units (r : Reply) (a : Bool) (s : State) : (offerReply r a s).units = s.units := by
  unfold offerReply; dsimp only; repeat' split
  all_goals simp [pushReply]
@[simp] theorem offerReply_unitAt (r : Reply) (a : Bool) (v : UnitId) (s : State) : unitAt v (offerReply r a s) = unitAt v s := by
  simp [unitAt]
@[simp] theorem offerReply_streams (r : Reply) (a : Bool) (s : State) : (offerReply r a s).streams = s.streams := by
  unfold offerReply; dsimp only; repeat' split
  all_goals simp [pushReply]
@[simp] theorem offerReply_streamAt (r : Reply) (a : Bool) (j : CtxId) (s : State) : streamAt j (offerReply r a s) = streamAt j s := by
  simp [streamAt]
@[simp] theorem offerReply_map (r : Reply) (a : Bool) (s : State) : (offerReply r a s).map = s.map := by
  unfold offerReply; dsimp only; repeat' split
  all_goals simp [pushReply]
@[simp] theorem offerReply_buses (r : Reply) (a : Bool) (s : State) : (offerReply r a s).buses = s.buses := by
  unfold offerReply; dsimp only; repeat' split
  all_goals simp [pushReply]
@[simp] theorem offerReply_busAt (r : Reply) (a : Bool) (e' : BusId) (s : State) : busAt e' (offerReply r a s) = busAt e' s := by
  simp [busAt]
@[simp] theorem offerReply_spt (r : Reply) (a : Bool) (s : State) : (offerReply r a s).spt = s.spt := by
  unfold offerReply; dsimp only; repeat' split
  all_goals simp [pushReply]
@[simp] theorem offerReply_miso (r : Reply) (a : Bool) (s : State) : (offerReply r a s).miso = s.miso := by
  unfold offerReply; dsimp only; repeat' split
  all_goals simp [pushReply]
@[simp] theorem offerReply_moment (r : Reply) (a : Bool) (s : State) : (offerReply r a s).moment = s.moment := by
  unfold offerReply; dsimp only; repeat' split
  all_goals simp [pushReply]
@[simp] theorem offerReply_pending (r : Reply) (a : Bool) (s : State) : (offerReply r a s).pending = s.pending := by
  unfold offerReply; dsimp only; repeat' split
  all_goals simp [pushReply]

@[simp] theorem answerOwn_inReset (c : ChanId) (b : Buf) (k : Byte) (st : Status) (s : State) : (answerOwn c b k st s).inReset = s.inReset := by simp [answerOwn]
@[simp] theorem answerOwn_raw (c : ChanId) (b : Buf) (k : Byte) (st : Status) (s : State) : (answerOwn c b k st s).raw = s.raw := by simp [answerOwn]
@[simp] theorem answerOwn_filtered (c : ChanId) (b : Buf) (k : Byte) (st : Status) (s : State) : (answerOwn c b k st s).filtered = s.filtered := by simp [answerOwn]
@[simp] theorem answerOwn_filterTimers (c : ChanId) (b : Buf) (k : Byte) (st : Status) (s : State) : (answerOwn c b k st s).filterTimers = s.filterTimers := by simp [answerOwn]
@[simp] theorem answerOwn_grants (c : ChanId) (b : Buf) (k : Byte) (st : Status) (s : State) : (answerOwn c b k st s).grants = s.grants := by simp [answerOwn]
@[simp] theorem answerOwn_grantAt (c : ChanId) (b : Buf) (k : Byte) (st : Status) (i : Slot) (s : State) : grantAt i (answerOwn c b k st s) = grantAt i s := by
  simp [grantAt]
@[simp] theorem answerOwn_units (c : ChanId) (b : Buf) (k : Byte) (st : Status) (s : State) : (answerOwn c b k st s).units = s.units := by simp [answerOwn]
@[simp] theorem answerOwn_unitAt (c : ChanId) (b : Buf) (k : Byte) (st : Status) (v : UnitId) (s : State) : unitAt v (answerOwn c b k st s) = unitAt v s := by
  simp [unitAt]
@[simp] theorem answerOwn_streams (c : ChanId) (b : Buf) (k : Byte) (st : Status) (s : State) : (answerOwn c b k st s).streams = s.streams := by simp [answerOwn]
@[simp] theorem answerOwn_streamAt (c : ChanId) (b : Buf) (k : Byte) (st : Status) (j : CtxId) (s : State) : streamAt j (answerOwn c b k st s) = streamAt j s := by
  simp [streamAt]
@[simp] theorem answerOwn_map (c : ChanId) (b : Buf) (k : Byte) (st : Status) (s : State) : (answerOwn c b k st s).map = s.map := by simp [answerOwn]
@[simp] theorem answerOwn_buses (c : ChanId) (b : Buf) (k : Byte) (st : Status) (s : State) : (answerOwn c b k st s).buses = s.buses := by simp [answerOwn]
@[simp] theorem answerOwn_busAt (c : ChanId) (b : Buf) (k : Byte) (st : Status) (e' : BusId) (s : State) : busAt e' (answerOwn c b k st s) = busAt e' s := by
  simp [busAt]
@[simp] theorem answerOwn_spt (c : ChanId) (b : Buf) (k : Byte) (st : Status) (s : State) : (answerOwn c b k st s).spt = s.spt := by simp [answerOwn]
@[simp] theorem answerOwn_miso (c : ChanId) (b : Buf) (k : Byte) (st : Status) (s : State) : (answerOwn c b k st s).miso = s.miso := by simp [answerOwn]
@[simp] theorem answerOwn_moment (c : ChanId) (b : Buf) (k : Byte) (st : Status) (s : State) : (answerOwn c b k st s).moment = s.moment := by simp [answerOwn]
@[simp] theorem answerOwn_pending (c : ChanId) (b : Buf) (k : Byte) (st : Status) (s : State) : (answerOwn c b k st s).pending = s.pending := by simp [answerOwn]

@[simp] theorem answerCommand_inReset (v : Envelope) (k : Byte) (st : Status) (q : List Byte) (s : State) : (answerCommand v k st q s).inReset = s.inReset := by simp [answerCommand]
@[simp] theorem answerCommand_raw (v : Envelope) (k : Byte) (st : Status) (q : List Byte) (s : State) : (answerCommand v k st q s).raw = s.raw := by simp [answerCommand]
@[simp] theorem answerCommand_filtered (v : Envelope) (k : Byte) (st : Status) (q : List Byte) (s : State) : (answerCommand v k st q s).filtered = s.filtered := by simp [answerCommand]
@[simp] theorem answerCommand_filterTimers (v : Envelope) (k : Byte) (st : Status) (q : List Byte) (s : State) : (answerCommand v k st q s).filterTimers = s.filterTimers := by simp [answerCommand]
@[simp] theorem answerCommand_grants (v : Envelope) (k : Byte) (st : Status) (q : List Byte) (s : State) : (answerCommand v k st q s).grants = s.grants := by simp [answerCommand]
@[simp] theorem answerCommand_grantAt (v : Envelope) (k : Byte) (st : Status) (q : List Byte) (i : Slot) (s : State) : grantAt i (answerCommand v k st q s) = grantAt i s := by
  simp [grantAt]
@[simp] theorem answerCommand_units (v : Envelope) (k : Byte) (st : Status) (q : List Byte) (s : State) : (answerCommand v k st q s).units = s.units := by simp [answerCommand]
@[simp] theorem answerCommand_unitAt (v : Envelope) (k : Byte) (st : Status) (q : List Byte) (v2 : UnitId) (s : State) : unitAt v2 (answerCommand v k st q s) = unitAt v2 s := by
  simp [unitAt]
@[simp] theorem answerCommand_streams (v : Envelope) (k : Byte) (st : Status) (q : List Byte) (s : State) : (answerCommand v k st q s).streams = s.streams := by simp [answerCommand]
@[simp] theorem answerCommand_streamAt (v : Envelope) (k : Byte) (st : Status) (q : List Byte) (j : CtxId) (s : State) : streamAt j (answerCommand v k st q s) = streamAt j s := by
  simp [streamAt]
@[simp] theorem answerCommand_map (v : Envelope) (k : Byte) (st : Status) (q : List Byte) (s : State) : (answerCommand v k st q s).map = s.map := by simp [answerCommand]
@[simp] theorem answerCommand_buses (v : Envelope) (k : Byte) (st : Status) (q : List Byte) (s : State) : (answerCommand v k st q s).buses = s.buses := by simp [answerCommand]
@[simp] theorem answerCommand_busAt (v : Envelope) (k : Byte) (st : Status) (q : List Byte) (e' : BusId) (s : State) : busAt e' (answerCommand v k st q s) = busAt e' s := by
  simp [busAt]
@[simp] theorem answerCommand_spt (v : Envelope) (k : Byte) (st : Status) (q : List Byte) (s : State) : (answerCommand v k st q s).spt = s.spt := by simp [answerCommand]
@[simp] theorem answerCommand_miso (v : Envelope) (k : Byte) (st : Status) (q : List Byte) (s : State) : (answerCommand v k st q s).miso = s.miso := by simp [answerCommand]
@[simp] theorem answerCommand_moment (v : Envelope) (k : Byte) (st : Status) (q : List Byte) (s : State) : (answerCommand v k st q s).moment = s.moment := by simp [answerCommand]
@[simp] theorem answerCommand_pending (v : Envelope) (k : Byte) (st : Status) (q : List Byte) (s : State) : (answerCommand v k st q s).pending = s.pending := by simp [answerCommand]

@[simp] theorem completeActive_inReset (c : ChanId) (st : Status) (q : List Byte) (s : State) : (completeActive c st q s).inReset = s.inReset := by
  unfold completeActive; split; rfl
  dsimp only; split <;> simp
@[simp] theorem completeActive_raw (c : ChanId) (st : Status) (q : List Byte) (s : State) : (completeActive c st q s).raw = s.raw := by
  unfold completeActive; split; rfl
  dsimp only; split <;> simp
@[simp] theorem completeActive_filtered (c : ChanId) (st : Status) (q : List Byte) (s : State) : (completeActive c st q s).filtered = s.filtered := by
  unfold completeActive; split; rfl
  dsimp only; split <;> simp
@[simp] theorem completeActive_filterTimers (c : ChanId) (st : Status) (q : List Byte) (s : State) : (completeActive c st q s).filterTimers = s.filterTimers := by
  unfold completeActive; split; rfl
  dsimp only; split <;> simp
@[simp] theorem completeActive_grants (c : ChanId) (st : Status) (q : List Byte) (s : State) : (completeActive c st q s).grants = s.grants := by
  unfold completeActive; split; rfl
  dsimp only; split <;> simp
@[simp] theorem completeActive_grantAt (c : ChanId) (st : Status) (q : List Byte) (i : Slot) (s : State) : grantAt i (completeActive c st q s) = grantAt i s := by
  simp [grantAt]
@[simp] theorem completeActive_units (c : ChanId) (st : Status) (q : List Byte) (s : State) : (completeActive c st q s).units = s.units := by
  unfold completeActive; split; rfl
  dsimp only; split <;> simp
@[simp] theorem completeActive_unitAt (c : ChanId) (st : Status) (q : List Byte) (v : UnitId) (s : State) : unitAt v (completeActive c st q s) = unitAt v s := by
  simp [unitAt]
@[simp] theorem completeActive_streams (c : ChanId) (st : Status) (q : List Byte) (s : State) : (completeActive c st q s).streams = s.streams := by
  unfold completeActive; split; rfl
  dsimp only; split <;> simp
@[simp] theorem completeActive_streamAt (c : ChanId) (st : Status) (q : List Byte) (j : CtxId) (s : State) : streamAt j (completeActive c st q s) = streamAt j s := by
  simp [streamAt]
@[simp] theorem completeActive_map (c : ChanId) (st : Status) (q : List Byte) (s : State) : (completeActive c st q s).map = s.map := by
  unfold completeActive; split; rfl
  dsimp only; split <;> simp
@[simp] theorem completeActive_buses (c : ChanId) (st : Status) (q : List Byte) (s : State) : (completeActive c st q s).buses = s.buses := by
  unfold completeActive; split; rfl
  dsimp only; split <;> simp
@[simp] theorem completeActive_busAt (c : ChanId) (st : Status) (q : List Byte) (e' : BusId) (s : State) : busAt e' (completeActive c st q s) = busAt e' s := by
  simp [busAt]
@[simp] theorem completeActive_spt (c : ChanId) (st : Status) (q : List Byte) (s : State) : (completeActive c st q s).spt = s.spt := by
  unfold completeActive; split; rfl
  dsimp only; split <;> simp
@[simp] theorem completeActive_miso (c : ChanId) (st : Status) (q : List Byte) (s : State) : (completeActive c st q s).miso = s.miso := by
  unfold completeActive; split; rfl
  dsimp only; split <;> simp
@[simp] theorem completeActive_moment (c : ChanId) (st : Status) (q : List Byte) (s : State) : (completeActive c st q s).moment = s.moment := by
  unfold completeActive; split; rfl
  dsimp only; split <;> simp
@[simp] theorem completeActive_pending (c : ChanId) (st : Status) (q : List Byte) (s : State) : (completeActive c st q s).pending = s.pending := by
  unfold completeActive; split; rfl
  dsimp only; split <;> simp

@[simp] theorem enterQueue_inReset (u : UnitId) (e : Entry) (s : State) : (enterQueue u e s).inReset = s.inReset := by unfold enterQueue; dsimp only; split <;> simp
@[simp] theorem enterQueue_raw (u : UnitId) (e : Entry) (s : State) : (enterQueue u e s).raw = s.raw := by unfold enterQueue; dsimp only; split <;> simp
@[simp] theorem enterQueue_filtered (u : UnitId) (e : Entry) (s : State) : (enterQueue u e s).filtered = s.filtered := by unfold enterQueue; dsimp only; split <;> simp
@[simp] theorem enterQueue_filterTimers (u : UnitId) (e : Entry) (s : State) : (enterQueue u e s).filterTimers = s.filterTimers := by unfold enterQueue; dsimp only; split <;> simp
@[simp] theorem enterQueue_grants (u : UnitId) (e : Entry) (s : State) : (enterQueue u e s).grants = s.grants := by unfold enterQueue; dsimp only; split <;> simp
@[simp] theorem enterQueue_grantAt (u : UnitId) (e : Entry) (i : Slot) (s : State) : grantAt i (enterQueue u e s) = grantAt i s := by
  simp [grantAt]
@[simp] theorem enterQueue_chans (u : UnitId) (e : Entry) (s : State) : (enterQueue u e s).chans = s.chans := by unfold enterQueue; dsimp only; split <;> simp
@[simp] theorem enterQueue_chanAt (u : UnitId) (e : Entry) (d : ChanId) (s : State) : chanAt d (enterQueue u e s) = chanAt d s := by
  simp [chanAt]
@[simp] theorem enterQueue_streams (u : UnitId) (e : Entry) (s : State) : (enterQueue u e s).streams = s.streams := by unfold enterQueue; dsimp only; split <;> simp
@[simp] theorem enterQueue_streamAt (u : UnitId) (e : Entry) (j : CtxId) (s : State) : streamAt j (enterQueue u e s) = streamAt j s := by
  simp [streamAt]
@[simp] theorem enterQueue_map (u : UnitId) (e : Entry) (s : State) : (enterQueue u e s).map = s.map := by unfold enterQueue; dsimp only; split <;> simp
@[simp] theorem enterQueue_monitor (u : UnitId) (e : Entry) (s : State) : (enterQueue u e s).monitor = s.monitor := by unfold enterQueue; dsimp only; split <;> simp
@[simp] theorem enterQueue_trail (u : UnitId) (e : Entry) (s : State) : (enterQueue u e s).trail = s.trail := by unfold enterQueue; dsimp only; split <;> simp
@[simp] theorem enterQueue_spt (u : UnitId) (e : Entry) (s : State) : (enterQueue u e s).spt = s.spt := by unfold enterQueue; dsimp only; split <;> simp
@[simp] theorem enterQueue_replies (u : UnitId) (e : Entry) (s : State) : (enterQueue u e s).replies = s.replies := by unfold enterQueue; dsimp only; split <;> simp
@[simp] theorem enterQueue_repliesAt (u : UnitId) (e : Entry) (p' : Port) (s : State) : repliesAt p' (enterQueue u e s) = repliesAt p' s := by
  simp [repliesAt]
@[simp] theorem enterQueue_miso (u : UnitId) (e : Entry) (s : State) : (enterQueue u e s).miso = s.miso := by unfold enterQueue; dsimp only; split <;> simp
@[simp] theorem enterQueue_moment (u : UnitId) (e : Entry) (s : State) : (enterQueue u e s).moment = s.moment := by unfold enterQueue; dsimp only; split <;> simp
@[simp] theorem enterQueue_pending (u : UnitId) (e : Entry) (s : State) : (enterQueue u e s).pending = s.pending := by unfold enterQueue; dsimp only; split <;> simp

@[simp] theorem makeOutstanding_inReset (u : UnitId) (e : Entry) (s : State) : (makeOutstanding u e s).inReset = s.inReset := by simp [makeOutstanding]
@[simp] theorem makeOutstanding_raw (u : UnitId) (e : Entry) (s : State) : (makeOutstanding u e s).raw = s.raw := by simp [makeOutstanding]
@[simp] theorem makeOutstanding_filtered (u : UnitId) (e : Entry) (s : State) : (makeOutstanding u e s).filtered = s.filtered := by simp [makeOutstanding]
@[simp] theorem makeOutstanding_filterTimers (u : UnitId) (e : Entry) (s : State) : (makeOutstanding u e s).filterTimers = s.filterTimers := by simp [makeOutstanding]
@[simp] theorem makeOutstanding_grants (u : UnitId) (e : Entry) (s : State) : (makeOutstanding u e s).grants = s.grants := by simp [makeOutstanding]
@[simp] theorem makeOutstanding_grantAt (u : UnitId) (e : Entry) (i : Slot) (s : State) : grantAt i (makeOutstanding u e s) = grantAt i s := by
  simp [grantAt]
@[simp] theorem makeOutstanding_chans (u : UnitId) (e : Entry) (s : State) : (makeOutstanding u e s).chans = s.chans := by simp [makeOutstanding]
@[simp] theorem makeOutstanding_chanAt (u : UnitId) (e : Entry) (d : ChanId) (s : State) : chanAt d (makeOutstanding u e s) = chanAt d s := by
  simp [chanAt]
@[simp] theorem makeOutstanding_streams (u : UnitId) (e : Entry) (s : State) : (makeOutstanding u e s).streams = s.streams := by simp [makeOutstanding]
@[simp] theorem makeOutstanding_streamAt (u : UnitId) (e : Entry) (j : CtxId) (s : State) : streamAt j (makeOutstanding u e s) = streamAt j s := by
  simp [streamAt]
@[simp] theorem makeOutstanding_map (u : UnitId) (e : Entry) (s : State) : (makeOutstanding u e s).map = s.map := by simp [makeOutstanding]
@[simp] theorem makeOutstanding_monitor (u : UnitId) (e : Entry) (s : State) : (makeOutstanding u e s).monitor = s.monitor := by simp [makeOutstanding]
@[simp] theorem makeOutstanding_trail (u : UnitId) (e : Entry) (s : State) : (makeOutstanding u e s).trail = s.trail := by simp [makeOutstanding]
@[simp] theorem makeOutstanding_spt (u : UnitId) (e : Entry) (s : State) : (makeOutstanding u e s).spt = s.spt := by simp [makeOutstanding]
@[simp] theorem makeOutstanding_replies (u : UnitId) (e : Entry) (s : State) : (makeOutstanding u e s).replies = s.replies := by simp [makeOutstanding]
@[simp] theorem makeOutstanding_repliesAt (u : UnitId) (e : Entry) (p' : Port) (s : State) : repliesAt p' (makeOutstanding u e s) = repliesAt p' s := by
  simp [repliesAt]
@[simp] theorem makeOutstanding_miso (u : UnitId) (e : Entry) (s : State) : (makeOutstanding u e s).miso = s.miso := by simp [makeOutstanding]
@[simp] theorem makeOutstanding_moment (u : UnitId) (e : Entry) (s : State) : (makeOutstanding u e s).moment = s.moment := by simp [makeOutstanding]
@[simp] theorem makeOutstanding_pending (u : UnitId) (e : Entry) (s : State) : (makeOutstanding u e s).pending = s.pending := by simp [makeOutstanding]

@[simp] theorem placeEntry_inReset (u : UnitId) (e : Entry) (s : State) : (placeEntry u e s).inReset = s.inReset := by unfold placeEntry; dsimp only; split <;> simp
@[simp] theorem placeEntry_raw (u : UnitId) (e : Entry) (s : State) : (placeEntry u e s).raw = s.raw := by unfold placeEntry; dsimp only; split <;> simp
@[simp] theorem placeEntry_filtered (u : UnitId) (e : Entry) (s : State) : (placeEntry u e s).filtered = s.filtered := by unfold placeEntry; dsimp only; split <;> simp
@[simp] theorem placeEntry_filterTimers (u : UnitId) (e : Entry) (s : State) : (placeEntry u e s).filterTimers = s.filterTimers := by unfold placeEntry; dsimp only; split <;> simp
@[simp] theorem placeEntry_grants (u : UnitId) (e : Entry) (s : State) : (placeEntry u e s).grants = s.grants := by unfold placeEntry; dsimp only; split <;> simp
@[simp] theorem placeEntry_grantAt (u : UnitId) (e : Entry) (i : Slot) (s : State) : grantAt i (placeEntry u e s) = grantAt i s := by
  simp [grantAt]
@[simp] theorem placeEntry_chans (u : UnitId) (e : Entry) (s : State) : (placeEntry u e s).chans = s.chans := by unfold placeEntry; dsimp only; split <;> simp
@[simp] theorem placeEntry_chanAt (u : UnitId) (e : Entry) (d : ChanId) (s : State) : chanAt d (placeEntry u e s) = chanAt d s := by
  simp [chanAt]
@[simp] theorem placeEntry_streams (u : UnitId) (e : Entry) (s : State) : (placeEntry u e s).streams = s.streams := by unfold placeEntry; dsimp only; split <;> simp
@[simp] theorem placeEntry_streamAt (u : UnitId) (e : Entry) (j : CtxId) (s : State) : streamAt j (placeEntry u e s) = streamAt j s := by
  simp [streamAt]
@[simp] theorem placeEntry_map (u : UnitId) (e : Entry) (s : State) : (placeEntry u e s).map = s.map := by unfold placeEntry; dsimp only; split <;> simp
@[simp] theorem placeEntry_monitor (u : UnitId) (e : Entry) (s : State) : (placeEntry u e s).monitor = s.monitor := by unfold placeEntry; dsimp only; split <;> simp
@[simp] theorem placeEntry_trail (u : UnitId) (e : Entry) (s : State) : (placeEntry u e s).trail = s.trail := by unfold placeEntry; dsimp only; split <;> simp
@[simp] theorem placeEntry_spt (u : UnitId) (e : Entry) (s : State) : (placeEntry u e s).spt = s.spt := by unfold placeEntry; dsimp only; split <;> simp
@[simp] theorem placeEntry_replies (u : UnitId) (e : Entry) (s : State) : (placeEntry u e s).replies = s.replies := by unfold placeEntry; dsimp only; split <;> simp
@[simp] theorem placeEntry_repliesAt (u : UnitId) (e : Entry) (p' : Port) (s : State) : repliesAt p' (placeEntry u e s) = repliesAt p' s := by
  simp [repliesAt]
@[simp] theorem placeEntry_miso (u : UnitId) (e : Entry) (s : State) : (placeEntry u e s).miso = s.miso := by unfold placeEntry; dsimp only; split <;> simp
@[simp] theorem placeEntry_moment (u : UnitId) (e : Entry) (s : State) : (placeEntry u e s).moment = s.moment := by unfold placeEntry; dsimp only; split <;> simp
@[simp] theorem placeEntry_pending (u : UnitId) (e : Entry) (s : State) : (placeEntry u e s).pending = s.pending := by unfold placeEntry; dsimp only; split <;> simp

@[simp] theorem promoteWait_inReset (u : UnitId) (s : State) : (promoteWait u s).inReset = s.inReset := by unfold promoteWait; dsimp only; split <;> simp
@[simp] theorem promoteWait_raw (u : UnitId) (s : State) : (promoteWait u s).raw = s.raw := by unfold promoteWait; dsimp only; split <;> simp
@[simp] theorem promoteWait_filtered (u : UnitId) (s : State) : (promoteWait u s).filtered = s.filtered := by unfold promoteWait; dsimp only; split <;> simp
@[simp] theorem promoteWait_filterTimers (u : UnitId) (s : State) : (promoteWait u s).filterTimers = s.filterTimers := by unfold promoteWait; dsimp only; split <;> simp
@[simp] theorem promoteWait_grants (u : UnitId) (s : State) : (promoteWait u s).grants = s.grants := by unfold promoteWait; dsimp only; split <;> simp
@[simp] theorem promoteWait_grantAt (u : UnitId) (i : Slot) (s : State) : grantAt i (promoteWait u s) = grantAt i s := by
  simp [grantAt]
@[simp] theorem promoteWait_chans (u : UnitId) (s : State) : (promoteWait u s).chans = s.chans := by unfold promoteWait; dsimp only; split <;> simp
@[simp] theorem promoteWait_chanAt (u : UnitId) (d : ChanId) (s : State) : chanAt d (promoteWait u s) = chanAt d s := by
  simp [chanAt]
@[simp] theorem promoteWait_streams (u : UnitId) (s : State) : (promoteWait u s).streams = s.streams := by unfold promoteWait; dsimp only; split <;> simp
@[simp] theorem promoteWait_streamAt (u : UnitId) (j : CtxId) (s : State) : streamAt j (promoteWait u s) = streamAt j s := by
  simp [streamAt]
@[simp] theorem promoteWait_map (u : UnitId) (s : State) : (promoteWait u s).map = s.map := by unfold promoteWait; dsimp only; split <;> simp
@[simp] theorem promoteWait_monitor (u : UnitId) (s : State) : (promoteWait u s).monitor = s.monitor := by unfold promoteWait; dsimp only; split <;> simp
@[simp] theorem promoteWait_trail (u : UnitId) (s : State) : (promoteWait u s).trail = s.trail := by unfold promoteWait; dsimp only; split <;> simp
@[simp] theorem promoteWait_spt (u : UnitId) (s : State) : (promoteWait u s).spt = s.spt := by unfold promoteWait; dsimp only; split <;> simp
@[simp] theorem promoteWait_replies (u : UnitId) (s : State) : (promoteWait u s).replies = s.replies := by unfold promoteWait; dsimp only; split <;> simp
@[simp] theorem promoteWait_repliesAt (u : UnitId) (p' : Port) (s : State) : repliesAt p' (promoteWait u s) = repliesAt p' s := by
  simp [repliesAt]
@[simp] theorem promoteWait_miso (u : UnitId) (s : State) : (promoteWait u s).miso = s.miso := by unfold promoteWait; dsimp only; split <;> simp
@[simp] theorem promoteWait_moment (u : UnitId) (s : State) : (promoteWait u s).moment = s.moment := by unfold promoteWait; dsimp only; split <;> simp
@[simp] theorem promoteWait_pending (u : UnitId) (s : State) : (promoteWait u s).pending = s.pending := by unfold promoteWait; dsimp only; split <;> simp

@[simp] theorem restartClaimTimer_inReset (u : UnitId) (s : State) : (restartClaimTimer u s).inReset = s.inReset := by unfold restartClaimTimer; dsimp only; split <;> simp
@[simp] theorem restartClaimTimer_raw (u : UnitId) (s : State) : (restartClaimTimer u s).raw = s.raw := by unfold restartClaimTimer; dsimp only; split <;> simp
@[simp] theorem restartClaimTimer_filtered (u : UnitId) (s : State) : (restartClaimTimer u s).filtered = s.filtered := by unfold restartClaimTimer; dsimp only; split <;> simp
@[simp] theorem restartClaimTimer_filterTimers (u : UnitId) (s : State) : (restartClaimTimer u s).filterTimers = s.filterTimers := by unfold restartClaimTimer; dsimp only; split <;> simp
@[simp] theorem restartClaimTimer_grants (u : UnitId) (s : State) : (restartClaimTimer u s).grants = s.grants := by unfold restartClaimTimer; dsimp only; split <;> simp
@[simp] theorem restartClaimTimer_grantAt (u : UnitId) (i : Slot) (s : State) : grantAt i (restartClaimTimer u s) = grantAt i s := by
  simp [grantAt]
@[simp] theorem restartClaimTimer_chans (u : UnitId) (s : State) : (restartClaimTimer u s).chans = s.chans := by unfold restartClaimTimer; dsimp only; split <;> simp
@[simp] theorem restartClaimTimer_chanAt (u : UnitId) (d : ChanId) (s : State) : chanAt d (restartClaimTimer u s) = chanAt d s := by
  simp [chanAt]
@[simp] theorem restartClaimTimer_streams (u : UnitId) (s : State) : (restartClaimTimer u s).streams = s.streams := by unfold restartClaimTimer; dsimp only; split <;> simp
@[simp] theorem restartClaimTimer_streamAt (u : UnitId) (j : CtxId) (s : State) : streamAt j (restartClaimTimer u s) = streamAt j s := by
  simp [streamAt]
@[simp] theorem restartClaimTimer_map (u : UnitId) (s : State) : (restartClaimTimer u s).map = s.map := by unfold restartClaimTimer; dsimp only; split <;> simp
@[simp] theorem restartClaimTimer_buses (u : UnitId) (s : State) : (restartClaimTimer u s).buses = s.buses := by unfold restartClaimTimer; dsimp only; split <;> simp
@[simp] theorem restartClaimTimer_busAt (u : UnitId) (e' : BusId) (s : State) : busAt e' (restartClaimTimer u s) = busAt e' s := by
  simp [busAt]
@[simp] theorem restartClaimTimer_monitor (u : UnitId) (s : State) : (restartClaimTimer u s).monitor = s.monitor := by unfold restartClaimTimer; dsimp only; split <;> simp
@[simp] theorem restartClaimTimer_trail (u : UnitId) (s : State) : (restartClaimTimer u s).trail = s.trail := by unfold restartClaimTimer; dsimp only; split <;> simp
@[simp] theorem restartClaimTimer_spt (u : UnitId) (s : State) : (restartClaimTimer u s).spt = s.spt := by unfold restartClaimTimer; dsimp only; split <;> simp
@[simp] theorem restartClaimTimer_replies (u : UnitId) (s : State) : (restartClaimTimer u s).replies = s.replies := by unfold restartClaimTimer; dsimp only; split <;> simp
@[simp] theorem restartClaimTimer_repliesAt (u : UnitId) (p' : Port) (s : State) : repliesAt p' (restartClaimTimer u s) = repliesAt p' s := by
  simp [repliesAt]
@[simp] theorem restartClaimTimer_miso (u : UnitId) (s : State) : (restartClaimTimer u s).miso = s.miso := by unfold restartClaimTimer; dsimp only; split <;> simp
@[simp] theorem restartClaimTimer_moment (u : UnitId) (s : State) : (restartClaimTimer u s).moment = s.moment := by unfold restartClaimTimer; dsimp only; split <;> simp
@[simp] theorem restartClaimTimer_pending (u : UnitId) (s : State) : (restartClaimTimer u s).pending = s.pending := by unfold restartClaimTimer; dsimp only; split <;> simp

end Sys2Proof.Machine
end

