-- ==== Sys2Proof/Laws/Keeps.lean ====
section
/-! SUPPORT. What the shared operations keep: the relation `Keeps`, its primitive cases, and one lemma for each
operation of Flags and Channels. Each lemma is stated in the form "if t is kept from s, then so is the operation on t",
so that a composition is proved by applying them in turn. -/

namespace Sys2Proof.Machine

/-- Every law that holds of `s` holds of `t`; the queue of commands, the reset line and the lines are unchanged. -/
structure Keeps (s t : State) : Prop where
  pending : t.pending = s.pending
  inReset : t.inReset = s.inReset
  raw : t.raw = s.raw
  filtered : t.filtered = s.filtered
  trail : TrailNumbered s.trail → TrailNumbered t.trail
  replies : RepliesBounded s → RepliesBounded t
  vacant : VacantClean s → VacantClean t
  flash : ∀ u, flashBound (unitAt u t).claim = true →
    flashBound (unitAt u s).claim = true ∨ flashInterlocked s = false
  map : MapPlaces s.map → MapPlaces t.map
  streams : StreamsCounted s → StreamsCounted t

theorem Keeps.refl (s : State) : Keeps s s :=
  ⟨rfl, rfl, rfl, rfl, id, id, id, fun _ h => Or.inl h, id, id⟩

theorem Keeps.trans {s t v : State} (h : Keeps s t) (k : Keeps t v) : Keeps s v where
  pending := k.pending.trans h.pending
  inReset := k.inReset.trans h.inReset
  raw := k.raw.trans h.raw
  filtered := k.filtered.trans h.filtered
  trail := k.trail ∘ h.trail
  replies := k.replies ∘ h.replies
  vacant := k.vacant ∘ h.vacant
  flash := fun u hu => by
    rcases k.flash u hu with h1 | h1
    · exact h.flash u h1
    · right; rw [← h1]; unfold flashInterlocked; rw [h.filtered]
  map := k.map ∘ h.map
  streams := k.streams ∘ h.streams

/-- The lines being the same, FLASH-bound claims stay at rest. -/
theorem Keeps.flashOnlyAtRest {s t : State} (h : Keeps s t) (hs : FlashOnlyAtRest s) : FlashOnlyAtRest t := by
  intro u hu
  rw [h.filtered]
  rcases h.flash u hu with h1 | h1
  · exact hs u h1
  · simpa [flashInterlocked] using h1

/-! ### Primitive updates -/

variable {s t : State}

/-- An update that touches none of the fields the laws speak of. -/
theorem keeps_of_eq {v : State} (h : Keeps s t) (e1 : v.pending = t.pending) (e2 : v.inReset = t.inReset)
    (e3 : v.raw = t.raw) (e4 : v.filtered = t.filtered) (e5 : v.trail = t.trail) (e6 : v.replies = t.replies)
    (e7 : v.grants = t.grants) (e8 : v.units = t.units) (e9 : v.map = t.map) (e10 : v.streams = t.streams) :
    Keeps s v := by
  refine h.trans ⟨e1, e2, e3, e4, ?_, ?_, ?_, ?_, ?_, ?_⟩
  · rw [e5]; exact id
  · unfold RepliesBounded repliesAt; rw [e6]; exact id
  · unfold VacantClean grantAt; rw [e7]; exact id
  · intro u hu; left; unfold unitAt at *; rwa [e8] at hu
  · rw [e9]; exact id
  · unfold StreamsCounted streamAt; rw [e10]; exact id

theorem keeps_setChan (h : Keeps s t) (c : ChanId) (x : Channel) : Keeps s (setChan c x t) :=
  keeps_of_eq h rfl rfl rfl rfl rfl rfl rfl rfl rfl rfl

theorem keeps_setBus (h : Keeps s t) (b : BusId) (x : Bus) : Keeps s (setBus b x t) :=
  keeps_of_eq h rfl rfl rfl rfl rfl rfl rfl rfl rfl rfl

theorem keeps_advance (h : Keeps s t) : Keeps s (advance t) :=
  keeps_of_eq h rfl rfl rfl rfl rfl rfl rfl rfl rfl rfl

/-- The monitor is free to change. -/
theorem keeps_monitor (h : Keeps s t) (m : Monitor) : Keeps s { t with monitor := m } :=
  keeps_of_eq h rfl rfl rfl rfl rfl rfl rfl rfl rfl rfl

/-- A grant that is VACANT only with its initial values, if every grant was before. -/
theorem keeps_setGrant (h : Keeps s t) (g : Slot) (x : Grant)
    (hx : VacantClean t → x.state = .vacant → x = Grant.vacant) : Keeps s (setGrant g x t) := by
  refine h.trans ⟨rfl, rfl, rfl, rfl, id, id, ?_, fun _ h => Or.inl h, id, id⟩
  intro hv i hi
  by_cases e : g = i
  · subst e; rw [grantAt_setGrant] at *; exact hx hv hi
  · rw [grantAt_setGrant_ne _ _ _ _ e] at *; exact hv i hi

/-- A unit whose claim is FLASH-bound only where it was, or with the lines at rest. -/
theorem keeps_setUnit (h : Keeps s t) (u : UnitId) (x : UnitRec)
    (hx : flashBound x.claim = true → flashBound (unitAt u t).claim = true ∨ flashInterlocked t = false) :
    Keeps s (setUnit u x t) := by
  refine h.trans ⟨rfl, rfl, rfl, rfl, id, id, id, ?_, id, id⟩
  intro v hv
  by_cases e : u = v
  · subst e; rw [unitAt_setUnit] at hv; exact hx hv
  · rw [unitAt_setUnit_ne _ _ _ _ e] at hv; exact Or.inl hv

/-- A unit whose claim is unchanged. -/
theorem keeps_setUnit_claim (h : Keeps s t) (u : UnitId) (x : UnitRec) (hx : x.claim = (unitAt u t).claim) :
    Keeps s (setUnit u x t) :=
  keeps_setUnit h u x fun hf => Or.inl (hx ▸ hf)

/-- A unit whose claim is not FLASH-bound. -/
theorem keeps_setUnit_rest (h : Keeps s t) (u : UnitId) (x : UnitRec) (hx : flashBound x.claim = false) :
    Keeps s (setUnit u x t) :=
  keeps_setUnit h u x fun hf => by rw [hx] at hf; exact absurd hf (by decide)

/-- A context whose counts stand in order if the context's did before. -/
theorem keeps_setStream (h : Keeps s t) (k : CtxId) (x : Option Stream)
    (hx : ∀ y, x = some y → (∀ z, streamAt k t = some z → StreamCounts z) → StreamCounts y) :
    Keeps s (setStream k x t) := by
  refine h.trans ⟨rfl, rfl, rfl, rfl, id, id, id, fun _ h => Or.inl h, id, ?_⟩
  intro hs j y hy
  by_cases e : k = j
  · subst e; rw [streamAt_setStream] at hy; exact hx y hy fun z hz => hs k z hz
  · rw [streamAt_setStream_ne _ _ _ _ e] at hy; exact hs j y hy

theorem keeps_freeStreamSlot (h : Keeps s t) (k : CtxId) : Keeps s (setStream k none t) :=
  keeps_setStream h k none fun _ e => absurd e (by simp)

/-- A map engine whose places are filled in order if they were before. -/
theorem keeps_setMap (h : Keeps s t) (m : MapEngine) (hm : MapPlaces t.map → MapPlaces m) : Keeps s (setMap m t) :=
  h.trans ⟨rfl, rfl, rfl, rfl, id, id, id, fun _ h => Or.inl h, hm, id⟩

/-- A reply queue that is no longer than 12 if all were before. -/
theorem keeps_setReplies (h : Keeps s t) (p : Port) (q : List Reply)
    (hq : RepliesBounded t → q.length ≤ Config.replyDepth) : Keeps s (setReplies p q t) := by
  refine h.trans ⟨rfl, rfl, rfl, rfl, id, ?_, id, fun _ h => Or.inl h, id, id⟩
  intro hr r
  by_cases e : p = r
  · subst e; rw [repliesAt_setReplies]; exact hq hr
  · rw [repliesAt_setReplies_ne _ _ _ _ e]; exact hr r

/-! ### The trail -/

/-- Sequence numbers of the last `n` records before `next`. -/
def seqRange (next : BitVec 32) (n : Nat) : List (BitVec 32) :=
  (List.range n).map fun i => next - BitVec.ofNat 32 (n - i)

theorem seqRange_succ (next : BitVec 32) (n : Nat) : seqRange (next + 1) (n + 1) = seqRange next n ++ [next] := by
  unfold seqRange
  rw [List.range_succ, List.map_append]
  congr 1
  · apply List.map_congr_left
    intro i hi
    have hi : i < n := List.mem_range.mp hi
    have e : n + 1 - i = (n - i) + 1 := by omega
    rw [e, BitVec.ofNat_add]
    exact add_sub_add_right_eq_sub next (BitVec.ofNat 32 (n - i)) 1
  · have e : n + 1 - n = 1 := by omega
    simp only [List.map_cons, List.map_nil, List.cons.injEq, and_true, e]
    exact add_sub_cancel_right next 1

theorem seqRange_drop (next : BitVec 32) (n k : Nat) : (seqRange next n).drop k = seqRange next (n - k) := by
  unfold seqRange
  apply List.ext_getElem
  · simp
  · intro i h1 h2
    simp only [List.length_drop, List.length_map, List.length_range] at h1 h2
    simp only [List.getElem_drop, List.getElem_map, List.getElem_range]
    congr 2
    omega

theorem trailNumbered_iff (t : Trail) :
    TrailNumbered t ↔ t.records.length ≤ 64 ∧ t.records.map (·.seq) = seqRange t.next t.records.length := Iff.rfl

theorem trailNumbered_append (x : Trail) (a : Option Port) (b : Option ChanId) (c : Option Slot) (d : Option UnitId)
    (e : Detail) (h : TrailNumbered x) : TrailNumbered (appendRecord x a b c d e) := by
  rw [trailNumbered_iff] at h ⊢
  obtain ⟨h1, h2⟩ := h
  by_cases hl : x.records.length < 64
  · have hr : (appendRecord x a b c d e).records.map (·.seq) = x.records.map (·.seq) ++ [x.next] := by
      simp [appendRecord, Config.trailDepth, hl]
    have hn : (appendRecord x a b c d e).records.length = x.records.length + 1 := by
      simp [appendRecord, Config.trailDepth, hl]
    refine ⟨by omega, ?_⟩
    rw [hr, hn, h2]
    exact (seqRange_succ x.next x.records.length).symm
  · have he : x.records.length = 64 := by omega
    have hr : (appendRecord x a b c d e).records.map (·.seq) = (x.records.map (·.seq)).drop 1 ++ [x.next] := by
      simp [appendRecord, Config.trailDepth, he]
    have hn : (appendRecord x a b c d e).records.length = 63 + 1 := by
      simp [appendRecord, Config.trailDepth, he]
    refine ⟨by omega, ?_⟩
    rw [hr, hn, h2, he, seqRange_drop]
    exact (seqRange_succ x.next 63).symm

theorem trailNumbered_drop (x : Trail) (n : Nat) (h : TrailNumbered x) :
    TrailNumbered { x with records := x.records.drop n } := by
  rw [trailNumbered_iff] at h ⊢
  obtain ⟨h1, h2⟩ := h
  refine ⟨by simp only [List.length_drop]; omega, ?_⟩
  simp only [List.map_drop, List.length_drop, h2, seqRange_drop]

/-! ### Flags -/

/-- An update of the trail by records and of the monitor. -/
theorem keeps_trail (h : Keeps s t) (x : Trail) (m : Monitor) (hx : TrailNumbered t.trail → TrailNumbered x) :
    Keeps s { t with trail := x, monitor := m } :=
  h.trans ⟨rfl, rfl, rfl, rfl, hx, id, id, fun _ h => Or.inl h, id, id⟩

theorem keeps_writeRecord (h : Keeps s t) (a : Option Port) (b : Option ChanId) (c : Option Slot)
    (d : Option UnitId) (e : Detail) : Keeps s (writeRecord a b c d e t) :=
  keeps_trail h _ _ (trailNumbered_append _ _ _ _ _ _)

theorem keeps_writeChanRecord (h : Keeps s t) (c : ChanId) (g : Option Slot) (u : Option UnitId) (e : Detail) :
    Keeps s (writeChanRecord c g u e t) :=
  keeps_writeRecord h _ _ _ _ _

theorem keeps_freezeTrigger (h : Keeps s t) (cause : FreezeCause) : Keeps s (freezeTrigger cause t) := by
  unfold freezeTrigger
  split
  · exact h
  · exact keeps_writeRecord (keeps_monitor h _) _ _ _ _ _

theorem keeps_addCounts (h : Keeps s t) (f : Fin 8 → Nat) : Keeps s (addCounts f t) := by
  unfold addCounts
  dsimp only
  split
  · exact keeps_freezeTrigger (keeps_monitor h _) _
  · exact keeps_monitor h _

theorem keeps_report (h : Keeps s t) (r : Report) : Keeps s (report r t) := by
  unfold report
  split
  · exact h
  · exact keeps_addCounts h _

theorem keeps_escalateGrant (h : Keeps s t) (g : Slot) : Keeps s (escalateGrant g t) := by
  unfold escalateGrant
  dsimp only
  split
  · exact h
  · split
    · exact keeps_freezeTrigger (keeps_monitor h _) _
    · exact keeps_monitor h _

theorem keeps_handBusFault (h : Keeps s t) : Keeps s (handBusFault t) := keeps_monitor h _

/-! ### Channels -/

theorem keeps_haltEntry (h : Keeps s t) (c : ChanId) (k : HaltCause) : Keeps s (haltEntry c k t) := by
  unfold haltEntry
  dsimp only
  split
  · exact keeps_setChan h _ _
  · exact h

theorem keeps_offerReply (h : Keeps s t) (r : Reply) (a : Bool) : Keeps s (offerReply r a t) := by
  unfold offerReply
  dsimp only
  split
  · rename_i hroom
    refine keeps_setReplies h _ _ fun _ => ?_
    simp only [replyRoom, decide_eq_true_eq] at hroom
    simp only [List.length_append, List.length_cons, List.length_nil]
    omega
  · split
    · exact keeps_haltEntry (keeps_report h _) _ _
    · exact keeps_report h _

theorem keeps_answerOwn (h : Keeps s t) (c : ChanId) (b : Buf) (k : Byte) (st : Status) :
    Keeps s (answerOwn c b k st t) :=
  keeps_offerReply h _ _

theorem keeps_answerCommand (h : Keeps s t) (e : Envelope) (k : Byte) (st : Status) (p : List Byte) :
    Keeps s (answerCommand e k st p t) :=
  keeps_offerReply h _ _

theorem keeps_completeActive (h : Keeps s t) (c : ChanId) (st : Status) (p : List Byte) :
    Keeps s (completeActive c st p t) := by
  unfold completeActive
  split
  · exact h
  · dsimp only
    split
    · exact keeps_setChan (keeps_offerReply h _ _) _ _
    · exact keeps_setChan h _ _

end Sys2Proof.Machine
end

