-- ==== Sys2Proof/Laws/KeepsUnits.lean ====
section
/-! SUPPORT. What the operations of Units, Streams, Maps and Claims keep: one `keeps` lemma for each. -/

namespace Sys2Proof.Machine

variable {s t : State}

/-- A fold of kept operations is kept. -/
theorem keeps_foldl {α : Type} (f : State → α → State) (hf : ∀ v a, Keeps s v → Keeps s (f v a)) (l : List α) :
    ∀ v, Keeps s v → Keeps s (l.foldl f v) := by
  induction l with
  | nil => intro v h; exact h
  | cons a l ih => intro v h; exact ih _ (hf v a h)

/-! ### Units -/

theorem keeps_enterQueue (h : Keeps s t) (u : UnitId) (e : Entry) : Keeps s (enterQueue u e t) := by
  unfold enterQueue
  dsimp only
  split
  · exact h
  · exact keeps_setUnit_claim (keeps_setBus h _ _) _ _ (by rfl)

theorem keeps_makeOutstanding (h : Keeps s t) (u : UnitId) (e : Entry) : Keeps s (makeOutstanding u e t) :=
  keeps_enterQueue (keeps_setUnit_claim h _ _ (by rfl)) _ _

theorem keeps_placeEntry (h : Keeps s t) (u : UnitId) (e : Entry) : Keeps s (placeEntry u e t) := by
  unfold placeEntry
  dsimp only
  split
  · exact keeps_makeOutstanding h _ _
  · exact keeps_setUnit_claim h _ _ (by rfl)

theorem keeps_promoteWait (h : Keeps s t) (u : UnitId) : Keeps s (promoteWait u t) := by
  unfold promoteWait
  dsimp only
  split
  · exact keeps_makeOutstanding (keeps_setUnit_claim h _ _ (by rfl)) _ _
  · exact h

theorem keeps_restartClaimTimer (h : Keeps s t) (u : UnitId) : Keeps s (restartClaimTimer u t) := by
  unfold restartClaimTimer
  dsimp only
  split
  · exact keeps_setUnit_claim h _ _ (by rfl)
  · exact h

/-! ### Streams -/

/-- A context whose counts follow from those of the context it replaces. -/
theorem keeps_setStream_from {x : Stream} (h : Keeps s t) (k : CtxId) (hk : streamAt k t = some x) (y : Stream)
    (hy : StreamCounts x → StreamCounts y) : Keeps s (setStream k (some y) t) :=
  keeps_setStream h k (some y) fun z hz hc => by
    cases hz
    exact hy (hc x hk)

/-- A context whose counts follow from the origin's laws. -/
theorem keeps_setStream_origin (h : Keeps s t) (k : CtxId) (y : Stream)
    (hy : StreamsCounted s → StreamCounts y) : Keeps s (setStream k (some y) t) := by
  refine ⟨h.pending, h.inReset, h.raw, h.filtered, h.trail, h.replies, h.vacant, h.flash, h.map, ?_⟩
  intro hs j z hz
  by_cases e : k = j
  · subst e; rw [streamAt_setStream] at hz; cases hz; exact hy hs
  · rw [streamAt_setStream_ne _ _ _ _ e] at hz; exact h.streams hs j z hz

theorem keeps_answerEnding (h : Keeps s t) (k : CtxId) : Keeps s (answerEnding k t) := by
  unfold answerEnding
  split
  · exact h
  · rename_i x hx
    split
    · exact h
    · exact keeps_completeActive (keeps_setStream_from h k hx _ (by exact id)) _ _ _

theorem streamCounts_concluded (x : Stream) (c : Option Concluded) (h : StreamCounts x) :
    StreamCounts { x with state := .concluded, concluded := c, slotB := [], idle := none } := by
  obtain ⟨h1, h2, h3, h4⟩ := h
  refine ⟨h1, ?_, by simp, h4⟩
  simp only [List.length_nil]; omega

theorem keeps_concludeStream (h : Keeps s t) (k : CtxId) (c : Concluded) : Keeps s (concludeStream k c t) := by
  unfold concludeStream
  split
  · exact h
  · rename_i x hx
    split
    · exact h
    · have h1 := keeps_setStream_from h k hx _ (streamCounts_concluded x (some c))
      dsimp only
      split
      · exact keeps_answerEnding h1 _
      · exact h1

theorem keeps_withdrawStream (h : Keeps s t) (k : CtxId) : Keeps s (withdrawStream k t) := by
  unfold withdrawStream
  split
  · exact h
  · rename_i x hx
    dsimp only
    refine keeps_answerEnding (keeps_setStream_from h k hx _ ?_) _
    split
    · exact id
    · exact streamCounts_concluded x (some .withdrawn)

/-- The context after a swap (R89). -/
theorem streamCounts_swapped (x : Stream) (h : StreamCounts x) (ha : x.slotA = none) :
    StreamCounts { x with slotA := some ⟨x.issued, x.slotB⟩, issued := x.issued + x.slotB.length, slotB := [] } := by
  obtain ⟨h1, h2, h3, h4⟩ := h
  rw [ha] at h4
  refine ⟨h1, ?_, by simp, ?_, rfl⟩
  · simp only [List.length_nil]; omega
  · simp only; omega

theorem keeps_swapSlots (h : Keeps s t) (k : CtxId) : Keeps s (swapSlots k t) := by
  unfold swapSlots
  split
  · exact h
  · rename_i x hx
    split
    · rename_i hd
      have ha : x.slotA = none := by
        unfold swapDue at hd
        simp only [Bool.and_eq_true, Option.isNone_iff_eq_none] at hd
        exact hd.1
      exact keeps_restartClaimTimer (keeps_placeEntry (keeps_setStream_from h k hx _
        fun hc => streamCounts_swapped x hc ha) _ _) _
    · exact h

/-- A swap leaves the context at `k` swapped where it is due, and as it was otherwise. -/
theorem streamAt_swapSlots {x : Stream} (k : CtxId) (s : State) (hx : streamAt k s = some x) :
    streamAt k (swapSlots k s) =
      some (if swapDue x then
        { x with slotA := some ⟨x.issued, x.slotB⟩, issued := x.issued + x.slotB.length, slotB := [] } else x) := by
  unfold swapSlots
  simp only [hx]
  split
  · unfold streamAt
    rw [restartClaimTimer_streams, placeEntry_streams]
    exact streamAt_setStream _ _ _
  · exact hx

theorem keeps_takeBlock (h : Keeps s t) (k : CtxId) (data : List Byte) : Keeps s (takeBlock k data t).1 := by
  unfold takeBlock
  split
  · exact h
  · rename_i x hx
    split
    · exact h
    · exact keeps_setStream_from h k hx _ (by exact id)
    · dsimp only
      generalize hr : (if x.slotA.isSome = true then x.size - x.slotB.length else 2 * x.size - x.slotB.length) = room
      split
      · exact keeps_setStream_from h k hx _ (by exact id)
      · rename_i hov
        split
        · exact keeps_setStream_from h k hx _ (by exact id)
        · rename_i hroom
          have hcount : ∀ y : Stream, StreamCounts x →
              y = { x with
                idle := some Config.idleMs
                accepted := x.accepted + data.length
                slotB := (x.slotB ++ data).take x.size } → StreamCounts y := by
            rintro y ⟨c1, c2, c3, c4⟩ rfl
            refine ⟨by simp only; omega, ?_, ?_, c4⟩
            · simp only [List.length_take, List.length_append]; omega
            · simp only [List.length_take]; omega
          have h1 := keeps_setStream_from h k hx _ fun hc => hcount _ hc rfl
          have h2 := keeps_swapSlots h1 k
          have hz := streamAt_swapSlots k _ (streamAt_setStream k (some
            { x with
              idle := some Config.idleMs
              accepted := x.accepted + data.length
              slotB := (x.slotB ++ data).take x.size }) t)
          split
          · exact h2
          · exact h2
          · rename_i z hz2 hne
            rw [hz] at hz2
            refine keeps_swapSlots (keeps_setStream_origin h2 k _ fun hs => ?_) k
            have hc := h.streams hs k x hx
            obtain ⟨c1, c2, c3, c4⟩ := hc
            have hlen : x.size < (x.slotB ++ data).length := by
              by_contra hle
              exact hne (List.drop_eq_nil_of_le (Nat.not_lt.mp hle))
            simp only [List.length_append] at hlen
            cases ha : x.slotA with
            | some a =>
              simp only [ha, Option.isSome_some, if_true] at hr
              omega
            | none =>
              simp only [ha, Option.isSome_none, Bool.false_eq_true, if_false] at hr
              rw [ha] at c4
              have htake : ((x.slotB ++ data).take x.size).length = x.size := by
                simp only [List.length_take, List.length_append]; omega
              simp only [swapDue, ha, Option.isNone_none, Bool.true_and, htake, beq_self_eq_true, Bool.true_or, if_true,
                Option.some.injEq] at hz2
              subst hz2
              refine ⟨?_, ?_, ?_, ?_, ?_⟩
              · simp only; omega
              · simp only [List.nil_append, List.length_drop, List.length_append]; omega
              · simp only [List.nil_append, List.length_drop, List.length_append]
                omega
              · simp only [htake]; omega
              · simp only [htake]

theorem keeps_takeStreamEnd (h : Keeps s t) (k : CtxId) : Keeps s (takeStreamEnd k t).1 := by
  unfold takeStreamEnd
  split
  · exact h
  · rename_i x hx
    split
    · split
      · exact keeps_setStream_from h k hx _ (by exact id)
      · exact keeps_swapSlots (keeps_setStream_from h k hx _ (by exact id)) _
    · exact h
    · split
      · exact keeps_setStream_from h k hx _ (by exact id)
      · exact keeps_setStream_from h k hx _ (by exact id)

theorem keeps_takeStreamAbort (h : Keeps s t) (k : CtxId) : Keeps s (takeStreamAbort k t).1 := by
  unfold takeStreamAbort
  split
  · exact h
  · rename_i x hx
    dsimp only
    have hc : StreamCounts x → StreamCounts (match x.state with
        | .filling => { x with state := .concluded, concluded := some .aborted, slotB := [], idle := none }
        | .draining => x
        | .concluded => x) := by
      split
      · exact streamCounts_concluded x (some .aborted)
      · exact id
      · exact id
    split
    · exact h
    · split
      · exact keeps_setStream_from h k hx _ (by exact hc)
      · exact keeps_setStream_from h k hx _ (by exact hc)

/-- Slot A freed: with its bytes confirmed, or not. -/
theorem streamCounts_freedA (x : Stream) (n : Nat) (a : SlotA) (ha : x.slotA = some a) (hn : n ≤ a.bytes.length)
    (h : StreamCounts x) : StreamCounts { x with slotA := none, confirmed := x.confirmed + n } := by
  obtain ⟨h1, h2, h3, h4⟩ := h
  rw [ha] at h4
  obtain ⟨h4, -⟩ := h4
  exact ⟨h1, h2, h3, by simp only; omega⟩

theorem keeps_blockDone (h : Keeps s t) (k : CtxId) (r : Result) : Keeps s (blockDone k r t) := by
  unfold blockDone
  split
  · exact h
  · rename_i x hx
    split
    · exact h
    · rename_i a ha
      have hp : Keeps s (setStream k (some { x with slotA := none, confirmed := x.confirmed + a.bytes.length }) t) :=
        keeps_setStream_from h k hx _ (streamCounts_freedA x _ a ha le_rfl)
      have hn : Keeps s (setStream k (some { x with slotA := none }) t) :=
        keeps_setStream_from h k hx _ (streamCounts_freedA x 0 a ha (Nat.zero_le _))
      split
      · exact keeps_answerEnding hp _
      · dsimp only
        split
        · exact keeps_swapSlots hp _
        · split
          · exact keeps_answerEnding (keeps_swapSlots hp _) _
          · exact keeps_swapSlots hp _
      · exact keeps_answerEnding hn _
      · exact keeps_concludeStream hn _ _

theorem keeps_idleExpires (h : Keeps s t) (k : CtxId) : Keeps s (idleExpires k t) := by
  unfold idleExpires
  split
  · exact h
  · rename_i x hx
    split
    · exact h
    · split
      · exact keeps_concludeStream h _ _
      · exact keeps_report (keeps_setStream_from h k hx _ (by exact id)) _

theorem keeps_freeStream (h : Keeps s t) (k : CtxId) : Keeps s (freeStream k t) := by
  unfold freeStream
  split
  · exact h
  · split
    · exact keeps_freeStreamSlot (keeps_setChan (keeps_writeChanRecord h _ _ _ _) _ _) _
    · exact h

/-! ### The map engine -/

theorem mapPlaces_placesOf (l : List Job) (r : Option RowSlot) (h : l.length ≤ 5) : MapPlaces (placesOf l r) := by
  cases l with
  | nil => exact ⟨by simp [placesOf], fun _ => rfl⟩
  | cons a l =>
    refine ⟨?_, fun e => by simp [placesOf] at e⟩
    simp only [List.length_cons] at h
    simp only [placesOf, List.tail_cons, Config.mapQueueDepth]
    omega

theorem jobsOf_length (m : MapEngine) (h : MapPlaces m) : (jobsOf m).length ≤ 5 := by
  obtain ⟨h1, h2⟩ := h
  simp only [Config.mapQueueDepth] at h1
  unfold jobsOf
  cases ha : m.active with
  | none => rw [h2 ha]; simp
  | some j => simp only [Option.toList_some, List.length_append, List.length_cons, List.length_nil]; omega

theorem keeps_setPlaces (h : Keeps s t) (l : List Job) (r : Option RowSlot)
    (hl : MapPlaces t.map → l.length ≤ 5) : Keeps s (setMap (placesOf l r) t) :=
  keeps_setMap h _ fun hm => mapPlaces_placesOf _ _ (hl hm)

theorem keeps_answerJob (h : Keeps s t) (j : Job) (st : Status) (q : List Byte) : Keeps s (answerJob j st q t) :=
  keeps_completeActive h _ _ _

/-- The map engine's places filled from no more jobs than the origin holds. -/
theorem keeps_setPlaces_origin {v : State} (h : Keeps s t) (hv : Keeps s v) (l : List Job) (r : Option RowSlot)
    (hl : l.length ≤ (jobsOf t.map).length) : Keeps s (setMap (placesOf l r) v) := by
  refine ⟨hv.pending, hv.inReset, hv.raw, hv.filtered, hv.trail, hv.replies, hv.vacant, hv.flash, ?_, hv.streams⟩
  intro hm
  exact mapPlaces_placesOf _ _ (hl.trans (jobsOf_length _ (h.map hm)))

theorem keeps_endJobs (h : Keeps s t) (p : Job → Bool) (st : Status) : Keeps s (endJobs p st t) := by
  unfold endJobs
  dsimp only
  refine keeps_setPlaces_origin h ?_ _ _ (List.length_filter_le _ _)
  exact keeps_foldl _ (fun v j hv => keeps_answerJob hv _ _ _) _ _ h

theorem answerJob_map (j : Job) (st : Status) (q : List Byte) (s : State) : (answerJob j st q s).map = s.map := by
  unfold answerJob; simp

theorem keeps_endActive (h : Keeps s t) (j : Job) (st : Status) (q : List Byte) : Keeps s (endActive j st q t) := by
  unfold endActive
  dsimp only
  refine keeps_setPlaces (keeps_answerJob h _ _ _) _ _ fun hm => ?_
  have := hm.1
  simp only [Config.mapQueueDepth] at this
  omega

/-- An active place that stays filled, the queue as it was. -/
theorem keeps_setActive (h : Keeps s t) (i : Job) (r : Option RowSlot) :
    Keeps s (setMap { t.map with active := some i, slot := r } t) :=
  keeps_setMap h _ fun hm => ⟨hm.1, fun e => by cases e⟩

theorem keeps_issueRow (h : Keeps s t) : Keeps s (issueRow t) := by
  unfold issueRow
  split
  · exact h
  · dsimp only
    split
    · exact keeps_endActive h _ _ _
    · split
      · exact keeps_endActive h _ _ _
      · split
        · exact h
        · exact keeps_placeEntry (keeps_setActive h _ _) _ _

theorem keeps_clearSlot (h : Keeps s t) : Keeps s (setMap { t.map with slot := none } t) :=
  keeps_setMap h _ fun hm => hm

theorem keeps_rowDone (h : Keeps s t) (r : Result) : Keeps s (rowDone r t) := by
  unfold rowDone
  split
  · exact h
  · split
    · exact keeps_clearSlot h
    · exact keeps_clearSlot h
    · split
      · dsimp only
        split
        · exact keeps_endActive (keeps_setActive h _ _) _ _ _
        · exact keeps_issueRow (keeps_setActive h _ _)
      · exact keeps_endActive (keeps_setActive h _ _) _ _ _
      · exact keeps_endActive (keeps_setActive h _ _) _ _ _
      · exact keeps_endActive (keeps_setActive h _ _) _ _ _

theorem keeps_startJob (h : Keeps s t) : Keeps s (startJob t) := by
  unfold startJob
  split
  · exact keeps_issueRow h
  · exact h

/-! ### Claims -/

theorem keeps_freeClaim (h : Keeps s t) (u : UnitId) : Keeps s (freeClaim u t) :=
  keeps_setUnit_rest h _ _ (by rfl)

theorem flashBound_entered (cl : Claim) (m : Mode) (n : Nat) :
    flashBound (enteredClaim cl m n) = true → m = .flash := by
  cases m <;> simp [flashBound, enteredClaim, stateOfMode]

theorem keeps_modeEnterPositive (h : Keeps s t) (u : UnitId) (c : ChanId) (n : Nat)
    (he : (unitAt u t).claim.state = .entering) : Keeps s (modeEnterPositive u c n t) := by
  unfold modeEnterPositive
  dsimp only
  refine keeps_writeChanRecord (keeps_completeActive (keeps_setUnit h _ _ fun hf => Or.inl ?_) _ _ _) _ _ _ _
  have hm := flashBound_entered _ _ _ hf
  unfold targetMode at hm
  cases ht : (unitAt u t).claim.target with
  | none => rw [ht] at hm; cases hm
  | some m =>
    rw [ht] at hm
    simp only [Option.getD_some] at hm
    subst hm
    simp [flashBound, he, ht]

theorem keeps_modeEnterFails (h : Keeps s t) (u : UnitId)
    (he : (unitAt u t).claim.state = .entering) : Keeps s (modeEnterFails u t) := by
  unfold modeEnterFails
  dsimp only
  split
  · exact keeps_freeClaim h _
  · rename_i m hm
    refine keeps_setUnit h _ _ fun hf => Or.inl ?_
    have := flashBound_entered _ _ _ hf
    subst this
    simp [flashBound, he, hm]

theorem keeps_modeEnterDone (h : Keeps s t) (u : UnitId) (c : ChanId) (n : Nat) (r : Result) :
    Keeps s (modeEnterDone u c n r t) := by
  unfold modeEnterDone
  split
  · exact keeps_completeActive h _ _ _
  · split
    · rename_i he; exact keeps_modeEnterPositive h _ _ _ he
    · exact keeps_completeActive h _ _ _
  · split
    · rename_i he; exact keeps_completeActive (keeps_modeEnterFails h _ he) _ _ _
    · exact keeps_completeActive h _ _ _
  · split
    · rename_i he; exact keeps_completeActive (keeps_modeEnterFails h _ he) _ _ _
    · exact keeps_completeActive h _ _ _

theorem keeps_writeClaimEnd (h : Keeps s t) (u : UnitId) (cl : Claim) (r : ClaimReason) (a : Bool) :
    Keeps s (writeClaimEnd u cl r a t) :=
  keeps_writeRecord h _ _ _ _ _

theorem keeps_answerRelease (h : Keeps s t) (cl : Claim) : Keeps s (answerRelease cl t) := by
  unfold answerRelease
  split
  · exact keeps_completeActive h _ _ _
  · exact h

theorem keeps_baseDone (h : Keeps s t) (u : UnitId) (a : Bool) : Keeps s (baseDone u a t) := by
  unfold baseDone
  dsimp only
  split
  · exact keeps_answerRelease (keeps_writeClaimEnd (keeps_freeClaim h _) _ _ _ _) _
  · exact h

theorem keeps_deliverResult (h : Keeps s t) (u : UnitId) (e : Entry) (r : Result) :
    Keeps s (deliverResult u e r t) := by
  unfold deliverResult
  split
  · split
    · exact keeps_modeEnterDone h _ _ _ _
    · exact keeps_completeActive h _ _ _
  · exact keeps_blockDone h _ _
  · exact keeps_rowDone h _
  · split
    · exact keeps_baseDone h _ _
    · exact keeps_baseDone h _ _
    · exact keeps_baseDone h _ _
    · exact h

theorem keeps_completeOut (h : Keeps s t) (u : UnitId) (r : Result) : Keeps s (completeOut u r t) := by
  unfold completeOut
  split
  · exact h
  · exact keeps_setUnit_claim (keeps_deliverResult h _ _ _) _ _ (by rfl)

theorem keeps_unqueue (h : Keeps s t) (u : UnitId) : Keeps s (unqueue u t) := by
  unfold unqueue
  split
  · exact h
  · exact keeps_setBus h _ _

theorem keeps_removeWaiting (h : Keeps s t) (u : UnitId) (p : Entry → Bool) (st : Status) :
    Keeps s (removeWaiting u p st t) := by
  unfold removeWaiting
  exact keeps_foldl _ (fun v e hv => keeps_deliverResult hv _ _ _) _ _ (keeps_setUnit_claim h _ _ (by rfl))

theorem keeps_withdrawOut (h : Keeps s t) (u : UnitId) (p : Entry → Bool) (st : Status) :
    Keeps s (withdrawOut u p st t) := by
  unfold withdrawOut
  split
  · exact h
  · split
    · exact keeps_completeOut (keeps_unqueue h _) _ _
    · exact h

theorem keeps_withdrawEntries (h : Keeps s t) (u : UnitId) (p : Entry → Bool) (st : Status) :
    Keeps s (withdrawEntries u p st t) :=
  keeps_withdrawOut (keeps_removeWaiting h _ _ _) _ _ _

theorem keeps_endHolderWork (h : Keeps s t) (p : Entry → Bool) (u : UnitId) (c : ChanId) :
    Keeps s (endHolderWork p u c t) := by
  unfold endHolderWork
  refine keeps_foldl _ (fun v k hv => ?_) _ _ (keeps_endJobs (keeps_removeWaiting h _ _ _) _ _)
  split
  · split
    · exact keeps_concludeStream hv _ _
    · exact hv
  · exact hv

theorem flashBound_leaving (cl : Claim) (r : ClaimReason) : flashBound (leavingClaim cl r) = false := rfl

theorem keeps_leaveClaimSparing (h : Keeps s t) (p : Entry → Bool) (u : UnitId) (r : ClaimReason) :
    Keeps s (leaveClaimSparing p u r t) := by
  unfold leaveClaimSparing
  dsimp only
  split
  · have h1 := keeps_setUnit_rest h u { unitAt u t with claim := leavingClaim (unitAt u t).claim r, claimTimer := none }
      (flashBound_leaving _ r)
    have h3 : Keeps s (placeEntry u baseEntry
        (if (unitAt u t).claim.state = .entering then
          withdrawEntries u isModeEnter (leavingAnswer (some r))
            (setUnit u { unitAt u t with claim := leavingClaim (unitAt u t).claim r, claimTimer := none } t)
        else setUnit u { unitAt u t with claim := leavingClaim (unitAt u t).claim r, claimTimer := none } t)) := by
      split
      · exact keeps_placeEntry (keeps_withdrawEntries h1 _ _ _) _ _
      · exact keeps_placeEntry h1 _ _
    split
    · split
      · exact h3
      · exact keeps_endHolderWork h3 _ _ _
    · exact h3
  · exact h

theorem keeps_leaveClaim (h : Keeps s t) (u : UnitId) (r : ClaimReason) : Keeps s (leaveClaim u r t) :=
  keeps_leaveClaimSparing h _ _ _

theorem keeps_endUnitWork (h : Keeps s t) (u : UnitId) (r : ClaimReason) (st : Status) :
    Keeps s (endUnitWork u r st t) := by
  unfold endUnitWork
  dsimp only
  have h2 := keeps_foldl (s := s) (fun v e => deliverResult u e (.ended st) v)
    (fun v e hv => keeps_deliverResult hv u e (.ended st)) ((unitAt u t).out.toList ++ (unitAt u t).wait) _
    (keeps_setUnit_claim h u { unitAt u t with out := none, wait := [], awaited := none, reasm := none } (by rfl))
  split
  · exact h2
  · exact keeps_answerRelease (keeps_writeClaimEnd (keeps_freeClaim h2 _) _ _ _ _) _

theorem keeps_claimTimerExpires (h : Keeps s t) (u : UnitId) : Keeps s (claimTimerExpires u t) := by
  unfold claimTimerExpires
  dsimp only
  split
  · exact h
  · exact keeps_report (keeps_leaveClaim h _ _) _

theorem keeps_queuePresence (h : Keeps s t) (u : UnitId) : Keeps s (queuePresence u t) := by
  unfold queuePresence
  split
  · exact h
  · dsimp only
    split
    · exact h
    · exact keeps_setBus h _ _

theorem keeps_presenceExpires (h : Keeps s t) (u : UnitId) : Keeps s (presenceExpires u t) := by
  unfold presenceExpires
  dsimp only
  split
  · exact h
  · split
    · exact keeps_setUnit_claim h _ _ (by rfl)
    · exact keeps_queuePresence (keeps_setUnit_claim h _ _ (by rfl)) _

end Sys2Proof.Machine
end

