-- ==== Sys2Proof/Laws/KeepsRequests.lean ====
section
/-! SUPPORT. What the operations of Admission, Requests and Settle keep: one `keeps` lemma for each. -/

namespace Sys2Proof.Machine

variable {s t : State}

/-! ### Admission -/

theorem keeps_admissionReport (h : Keeps s t) (c : ChanId) (u : Option UnitId) (e : Event) :
    Keeps s (admissionReport c u e t) :=
  keeps_report h _

theorem keeps_noteRefusal (h : Keeps s t) (c : ChanId) (b : List Byte) (st : Status) :
    Keeps s (noteRefusal c b st t) := by
  have h1 : Keeps s (if recordsRefusal st then
      writeChanRecord c none (bodyUnit b) (.refusal st (bodyKind b)) t else t) := by
    split
    · exact keeps_writeChanRecord h _ _ _ _
    · exact h
  unfold noteRefusal
  dsimp only
  split
  · exact keeps_admissionReport (keeps_admissionReport h1 _ _ _) _ _ _
  · exact keeps_admissionReport h1 _ _ _

theorem keeps_charge (h : Keeps s t) (g : Slot) (n : Nat) : Keeps s (charge g n t) := by
  unfold charge
  dsimp only
  split
  · exact h
  · rename_i hn
    have hs : Keeps s (setGrant g { grantAt g t with counter := 0, state := .spent } t) :=
      keeps_setGrant h _ _ fun _ e => by cases e
    split
    · refine keeps_setGrant h _ _ fun hv e => ?_
      have := hv g e
      rw [this] at hn
      exact absurd (Or.inl rfl) hn
    · split
      · exact keeps_escalateGrant hs _
      · exact hs

theorem keeps_chargeSelected (h : Keeps s t) (g : Option Slot) (n : Nat) : Keeps s (chargeSelected g n t) := by
  unfold chargeSelected
  split
  · exact keeps_charge h _ _
  · exact h

theorem keeps_recordAdmitted (h : Keeps s t) (c : ChanId) (r : Request) (g : Option Slot) :
    Keeps s (recordAdmitted c r g t) := by
  unfold recordAdmitted
  split
  · exact keeps_writeChanRecord h _ _ _ _
  · exact h

theorem keeps_noteAdmission (h : Keeps s t) (c : ChanId) (r : Request) (g : Option Slot) (n : Nat) :
    Keeps s (noteAdmission c r g n t) :=
  keeps_admissionReport (keeps_recordAdmitted (keeps_chargeSelected h _ _) _ _ _) _ _ _

/-- The monitor's reports, the records and the charge leave the map engine as it was. -/
theorem noteAdmission_map (c : ChanId) (r : Request) (g : Option Slot) (n : Nat) (s : State) :
    (noteAdmission c r g n s).map = s.map := by
  unfold noteAdmission admissionReport recordAdmitted chargeSelected charge
  dsimp only
  repeat' split
  all_goals simp

/-- An admitted request has passed its interlock and capacity stages. -/
theorem check_admitted {c : ChanId} {b : List Byte} {s : State} {r : Request} {g : Option Slot} {p : Plan}
    (h : check c b s = .admitted r g p) :
    interlocked r s = false ∧ capacityStage r s = none ∧ p = planOf r s ∧ g = selectGrant c r s ∧
      refusalOf c r s = none := by
  unfold check at h
  split at h
  · cases h
  · split at h
    · cases h
    · rename_i hr
      cases h
      refine ⟨?_, ?_, rfl, rfl, hr⟩
      · unfold refusalOf stages at hr
        rw [List.findSome?_eq_none_iff] at hr
        have := hr (interlockStage r s) (by simp)
        unfold interlockStage at this
        simpa using this
      · unfold refusalOf stages at hr
        rw [List.findSome?_eq_none_iff] at hr
        exact hr (capacityStage r s) (by simp)

/-! ### Hand-off -/

theorem keeps_restartForHolder (h : Keeps s t) (c : ChanId) (u : UnitId) : Keeps s (restartForHolder c u t) := by
  unfold restartForHolder
  split
  · exact keeps_restartClaimTimer h _
  · exact h

theorem restartForHolder_map (c : ChanId) (u : UnitId) (s : State) : (restartForHolder c u s).map = s.map := by
  unfold restartForHolder restartClaimTimer
  dsimp only
  repeat' split
  all_goals rfl

theorem keeps_placeRequest (h : Keeps s t) (c : ChanId) (u : UnitId) (m : UnitMsg) (g : Option Slot)
    (w : Option (Fin 4)) : Keeps s (placeRequest c u m g w t).1 :=
  keeps_placeEntry (keeps_restartForHolder h _ _) _ _

theorem flashInterlocked_congr {s t : State} (h : Keeps s t) : flashInterlocked t = flashInterlocked s := by
  unfold flashInterlocked; rw [h.filtered]

theorem keeps_handModeClaim (h : Keeps s t) (c : ChanId) (u : UnitId) (m : Mode) (n : Nat) (g : Option Slot)
    (hm : m = .flash → flashInterlocked t = false) : Keeps s (handModeClaim c u m n g t).1 := by
  unfold handModeClaim
  dsimp only
  split
  · refine keeps_placeEntry (keeps_setUnit h _ _ fun hf => ?_) _ _
    cases m with
    | attended => simp [flashBound, takenClaim, Claim.free] at hf
    | flash => exact Or.inr (hm rfl)
  · split
    · exact keeps_setUnit h _ _ fun hf => Or.inl (by simpa [flashBound] using hf)
    · refine keeps_placeEntry (keeps_setUnit h _ _ fun hf => ?_) _ _
      cases m with
      | flash => exact Or.inr (hm rfl)
      | attended =>
        left
        cases hs : (unitAt u t).claim.state <;> simp_all [flashBound, changingClaim, heldMode]

theorem keeps_handModeRelease (h : Keeps s t) (u : UnitId) : Keeps s (handModeRelease u t).1 :=
  keeps_setUnit (keeps_leaveClaim h _ _) _ _ fun hf => Or.inl (by simpa [flashBound] using hf)

theorem keeps_takeJob (h : Keeps s t) (j : Job) (hp : mapPlaceFree t = true) : Keeps s (takeJob j t) := by
  unfold takeJob
  refine keeps_setPlaces h _ _ fun hm => ?_
  obtain ⟨h1, h2⟩ := hm
  unfold mapPlaceFree at hp
  simp [Config.mapQueueDepth] at hp h1
  unfold jobsOf
  simp only [List.length_append, List.length_cons, List.length_nil]
  rcases hp with hp | hp
  · rw [hp, h2 hp]; simp
  · have := of_decide_eq_true hp
    cases t.map.active <;> simp only [Option.toList_none, Option.toList_some, List.length_cons, List.length_nil] <;> omega

theorem keeps_handJob (h : Keeps s t) (j : Job) (b : Bool) (hp : mapPlaceFree t = true) :
    Keeps s (handJob j b t).1 := by
  refine keeps_takeJob (keeps_restartForHolder h _ _) _ ?_
  unfold mapPlaceFree at *
  rwa [restartForHolder_map]

theorem keeps_bindStream (h : Keeps s t) (k : CtxId) (x : Stream) (hx : StreamCounts x) :
    Keeps s (bindStream k x t) :=
  keeps_setChan (keeps_setStream h _ _ fun y e _ => by cases e; exact hx) _ _

theorem keeps_handStreamOpen (h : Keeps s t) (x : Stream) (hx : StreamCounts x) :
    Keeps s (handStreamOpen x t).1 := by
  unfold handStreamOpen
  dsimp only
  split
  · exact keeps_restartForHolder h _ _
  · exact keeps_bindStream (keeps_restartForHolder h _ _) _ _ hx

theorem keeps_handToStream (h : Keeps s t) (c : ChanId) (f : CtxId → State → State × HandOff)
    (hf : ∀ k, Keeps s (f k t).1) : Keeps s (handToStream c f t).1 := by
  unfold handToStream
  split
  · exact hf _
  · exact h

theorem streamCounts_opened (c : ChanId) (u : UnitId) (i : Fin 4) (p : GapPolicy) (z a n : Nat) (g : Slot) :
    StreamCounts (openedStream c u i p z a n g) := by
  simp [StreamCounts, openedStream]

theorem keeps_handOff (h : Keeps s t) (c : ChanId) (r : Request) (g : Option Slot) (p : Plan)
    (hf : ∀ u n, r = .modeClaim u .flash n → flashInterlocked t = false)
    (hm : (r.kind = .mapRead ∨ r.kind = .mapWrite ∧ p.cost ≠ 0) → mapPlaceFree t = true) :
    Keeps s (handOff c r g p t).1 := by
  unfold handOff
  split
  · exact keeps_placeRequest h _ _ _ _ _
  · exact keeps_placeRequest h _ _ _ _ _
  · exact keeps_placeRequest h _ _ _ _ _
  · exact keeps_placeRequest h _ _ _ _ _
  · exact keeps_placeRequest h _ _ _ _ _
  · exact keeps_placeRequest h _ _ _ _ _
  · exact keeps_handJob h _ _ (hm (Or.inl rfl))
  · split
    · exact keeps_restartForHolder h _ _
    · rename_i hc
      exact keeps_handJob h _ _ (hm (Or.inr ⟨rfl, hc⟩))
  · exact keeps_handModeClaim h _ _ _ _ _ fun e => hf _ _ (by rw [e])
  · exact keeps_restartClaimTimer h _
  · exact keeps_handModeRelease h _
  · exact keeps_handStreamOpen h _ (streamCounts_opened _ _ _ _ _ _ _ _)
  · exact keeps_handToStream h _ _ fun k => keeps_takeBlock h k _
  · exact keeps_handToStream h _ _ fun k => keeps_takeStreamEnd h k
  · exact keeps_handToStream h _ _ fun k => keeps_takeStreamAbort h k
  · exact h
  · exact h

/-! ### Decisions -/

theorem keeps_answerTaken (h : Keeps s t) (c : ChanId) (b : Buf) (k : Byte) (st : Status) (cl : Bool)
    (q : List Byte) (a : Bool) : Keeps s (answerTaken c b k st cl q a t) :=
  keeps_setChan (keeps_offerReply h _ _) _ _

theorem keeps_finishHandOff (h : Keeps s t) (c : ChanId) (b : Buf) (k : ReqKind) (o : HandOff) :
    Keeps s (finishHandOff c b k o t) := by
  unfold finishHandOff
  split
  · exact keeps_answerTaken h _ _ _ _ _ _ _
  · exact keeps_setChan (keeps_answerTaken h _ _ _ _ _ _ _) _ _
  · exact keeps_haltEntry (keeps_answerTaken h _ _ _ _ _ _ _) _ _
  · exact keeps_setChan h _ _

theorem keeps_admitted {r : Request} {g : Option Slot} {p : Plan} (h : Keeps s t) (c : ChanId) (body : List Byte)
    (hc : check c body t = .admitted r g p) : Keeps s (handOff c r g p (noteAdmission c r g p.cost t)).1 := by
  obtain ⟨hi, hcap, hp, -, -⟩ := check_admitted hc
  have hn := keeps_noteAdmission h c r g p.cost
  refine keeps_handOff hn c r g p ?_ ?_
  · rintro u n rfl
    rw [flashInterlocked_congr hn, ← flashInterlocked_congr h]
    exact hi
  · intro hk
    have hfree : mapPlaceFree t = true := by
      cases r <;> simp_all [Request.kind, capacityStage, mapRoom]
    unfold mapPlaceFree at *
    rwa [noteAdmission_map]

theorem keeps_decideTaken (h : Keeps s t) (c : ChanId) (b : Buf) (body : List Byte) :
    Keeps s (decideTaken c b body t) := by
  unfold decideTaken
  split
  · exact keeps_answerTaken (keeps_noteRefusal h _ _ _) _ _ _ _ _ _ _
  · rename_i hc
    exact keeps_finishHandOff (keeps_admitted h c body hc) _ _ _ _

theorem keeps_promoteStaged (h : Keeps s t) (c : ChanId) : Keeps s (promoteStaged c t) := by
  unfold promoteStaged
  dsimp only
  split
  · exact h
  · split
    · exact keeps_decideTaken (keeps_setChan h _ _) _ _ _
    · exact keeps_setChan h _ _

/-! ### Closing -/

theorem keeps_withdrawStreamsOf (h : Keeps s t) (c : ChanId) : Keeps s (withdrawStreamsOf c t) := by
  refine keeps_foldl _ (fun v k hv => ?_) _ _ h
  split
  · split
    · exact keeps_withdrawStream hv _
    · exact hv
  · exact hv

theorem keeps_leaveClaimsOf (h : Keeps s t) (c : ChanId) : Keeps s (leaveClaimsOf c t) := by
  refine keeps_foldl _ (fun v u hv => ?_) _ _ h
  split
  · exact keeps_leaveClaim hv _ _
  · exact hv

theorem keeps_withdrawJobsOf (h : Keeps s t) (c : ChanId) : Keeps s (withdrawJobsOf c t) := keeps_endJobs h _ _

theorem keeps_closeChannel (h : Keeps s t) (c : ChanId) : Keeps s (closeChannel c t) :=
  keeps_leaveClaimsOf (keeps_withdrawJobsOf (keeps_withdrawStreamsOf (keeps_setChan h _ _) _) _) _

/-! ### Messages at a channel -/

theorem keeps_answerMessage (h : Keeps s t) (c : ChanId) (b : Buf) (k : ReqKind) (st : Status) (a : Bool) :
    Keeps s (answerMessage c b k st a t) :=
  keeps_offerReply h _ _

theorem keeps_deliverOpen (h : Keeps s t) (c : ChanId) (b : Buf) (body : List Byte) :
    Keeps s (deliverOpen c b body t) := by
  unfold deliverOpen
  split
  · split
    · split
      · exact keeps_answerMessage (keeps_noteRefusal h _ _ _) _ _ _ _ _
      · exact keeps_answerMessage (keeps_setChan (keeps_noteAdmission h _ _ _ _) _ _) _ _ _ _ _
    · exact keeps_answerOwn h _ _ _ _
  · exact keeps_answerOwn h _ _ _ _
  · exact keeps_answerOwn h _ _ _ _

theorem keeps_deliverClose (h : Keeps s t) (c : ChanId) (b : Buf) (body : List Byte) :
    Keeps s (deliverClose c b body t) := by
  unfold deliverClose
  split
  · exact keeps_answerOwn h _ _ _ _
  · split
    · exact keeps_answerMessage (keeps_noteRefusal h _ _ _) _ _ _ _ _
    · exact keeps_answerMessage (keeps_closeChannel (keeps_noteAdmission h _ _ _ _) _) _ _ _ _ _

theorem keeps_takeAndDecide (h : Keeps s t) (c : ChanId) (b : Buf) (body : List Byte) :
    Keeps s (takeAndDecide c b body t) :=
  keeps_decideTaken (keeps_setChan h _ _) _ _ _

theorem keeps_takeByState (h : Keeps s t) (c : ChanId) (b : Buf) (body : List Byte) :
    Keeps s (takeByState c b body t) := by
  unfold takeByState
  dsimp only
  split
  · split
    · exact keeps_takeAndDecide h _ _ _
    · exact keeps_answerOwn h _ _ _ _
  · split
    · exact keeps_answerOwn h _ _ _ _
    · split
      · exact keeps_answerOwn h _ _ _ _
      · exact keeps_setChan h _ _
  · split
    · exact keeps_answerOwn h _ _ _ _
    · exact keeps_takeAndDecide h _ _ _

theorem keeps_deliverOther (h : Keeps s t) (c : ChanId) (b : Buf) (body : List Byte) :
    Keeps s (deliverOther c b body t) := by
  unfold deliverOther deliverWorking
  dsimp only
  split
  · exact keeps_answerOwn h _ _ _ _
  · exact keeps_answerOwn h _ _ _ _
  · split
    · exact keeps_report (keeps_answerOwn h _ _ _ _) _
    · split
      · exact keeps_answerOwn h _ _ _ _
      · exact keeps_takeByState h _ _ _

theorem keeps_deliver (h : Keeps s t) (c : ChanId) (b : Buf) (body : List Byte) : Keeps s (deliver c b body t) := by
  unfold deliver
  split
  · exact keeps_deliverOpen h _ _ _
  · exact keeps_deliverClose h _ _ _
  · exact keeps_deliverOther h _ _ _

theorem keeps_drainChannel (h : Keeps s t) (c : ChanId) : Keeps s (drainChannel c t) := by
  unfold drainChannel
  split
  · exact keeps_setChan h _ _
  · exact h

theorem keeps_clearChannel (h : Keeps s t) (c : ChanId) : Keeps s (clearChannel c t) :=
  keeps_drainChannel (keeps_setChan (keeps_withdrawJobsOf (keeps_withdrawStreamsOf h _) _) _ _) _

/-! ### Internal steps -/

theorem keeps_runInternal (h : Keeps s t) (i : Internal) : Keeps s (runInternal i t) := by
  unfold runInternal
  split
  · exact keeps_promoteWait h _
  · exact keeps_freeStream h _
  · exact keeps_drainChannel h _
  · exact keeps_startJob h
  · exact keeps_promoteStaged h _

theorem keeps_settleFor (n : Nat) : ∀ {t : State}, Keeps s t → Keeps s (settleFor n t) := by
  induction n with
  | zero => intro t h; exact h
  | succ n ih =>
    intro t h
    unfold settleFor
    split
    · exact h
    · exact ih (keeps_runInternal h _)

theorem keeps_settle (h : Keeps s t) : Keeps s (settle t) := keeps_settleFor _ h

/-- A settled state has no internal step due, and settling it changes nothing. -/
theorem settle_of_none (s : State) (h : nextInternal s = none) : settle s = s := by
  unfold settle
  generalize settleBound s = n
  cases n with
  | zero => rfl
  | succ n => simp [settleFor, h]

theorem keeps_promoteWaits (h : Keeps s t) : Keeps s (promoteWaits t) :=
  keeps_foldl _ (fun _ _ hv => keeps_promoteWait hv _) _ _ h

theorem keeps_promoteStagedRow (h : Keeps s t) (c : ChanId) : Keeps s (promoteStagedRow c t) := by
  unfold promoteStagedRow
  split
  · exact keeps_promoteStaged (keeps_promoteWaits h) _
  · exact h

/-- A command from outside that keeps what it acts on. -/
theorem keeps_running {f : State → State} (hf : ∀ {t}, Keeps s t → Keeps s (f t))
    {v : State} (h : running f s = .next v) : Keeps s v := by
  unfold running at h
  split at h
  · cases h; exact Keeps.refl s
  · cases h; exact hf (keeps_advance (keeps_settle (Keeps.refl s)))

/-- An internal row that keeps what it acts on. -/
theorem keeps_runningInternal {f : State → State} (hf : ∀ {t}, Keeps s t → Keeps s (f t))
    {v : State} (h : runningInternal f s = .next v) : Keeps s v := by
  unfold runningInternal at h
  split at h
  · cases h; exact Keeps.refl s
  · cases h; exact hf (Keeps.refl s)

end Sys2Proof.Machine
end

