-- ==== Sys2Proof/Laws/KeepsRows.lean ====
section
/-! SUPPORT. What the operations of Consequences, Grants, Buses, Lines, Monitor, Trail, Supervisor, Ports and Timers
keep: one `keeps` lemma for each. -/

namespace Sys2Proof.Machine

variable {s t : State}

/-! ### Consequences -/

theorem keeps_closeSptChannels (h : Keeps s t) : Keeps s (closeSptChannels t) := by
  refine keeps_foldl _ (fun v i hv => ?_) _ _ h
  split
  · exact hv
  · exact keeps_closeChannel hv _

theorem keeps_runConsequence (h : Keeps s t) (q : Consequence) : Keeps s (runConsequence q t) := by
  unfold runConsequence
  split
  · split
    · exact keeps_leaveClaim h _ _
    · exact h
  · split
    · exact keeps_leaveClaimSparing h _ _ _
    · exact h
  · split
    · exact keeps_leaveClaim h _ _
    · exact h
  · exact keeps_withdrawEntries h _ _ _
  · exact keeps_withdrawEntries h _ _ _
  · exact keeps_concludeStream h _ _
  · split
    · exact keeps_concludeStream h _ _
    · exact h
  · exact keeps_endJobs h _ _
  · exact keeps_endJobs h _ _
  · exact keeps_endJobs h _ _
  · split
    · exact keeps_endUnitWork h _ _ _
    · exact h
  · split
    · exact keeps_concludeStream h _ _
    · exact h
  · exact keeps_endJobs h _ _
  · exact keeps_closeSptChannels h

theorem keeps_runInOrder (n : Nat) : ∀ (picks : List Nat) (left : List Consequence) {t : State}, Keeps s t →
    Keeps s (runInOrder n picks left t) := by
  induction n with
  | zero => intro picks left t h; exact h
  | succ n ih =>
    intro picks left t h
    unfold runInOrder
    split
    · exact h
    · exact ih _ _ (keeps_runConsequence h _)

theorem keeps_runAll (h : Keeps s t) (picks : List Nat) (all : List Consequence) : Keeps s (runAll picks all t) :=
  keeps_runInOrder _ _ _ h

/-- Whatever the order, every consequence is taken: what one of them establishes and all of them keep holds in the
end. -/
theorem runInOrder_reaches {P : State → Prop} (q : Consequence) (hq : ∀ v, P (runConsequence q v))
    (hk : ∀ p v, P v → P (runConsequence p v)) : ∀ (n : Nat) (picks : List Nat) (left : List Consequence) (v : State),
    left.length = n → (q ∈ left ∨ P v) → P (runInOrder n picks left v) := by
  intro n
  induction n with
  | zero =>
    intro picks left v hl hm
    rw [List.length_eq_zero_iff] at hl
    subst hl
    rcases hm with hm | hm
    · cases hm
    · exact hm
  | succ n ih =>
    intro picks left v hl hm
    unfold runInOrder
    have hlt : picks.headD 0 % left.length < left.length := Nat.mod_lt _ (by omega)
    rw [List.getElem?_eq_getElem hlt]
    refine ih _ _ _ (by rw [List.length_eraseIdx_of_lt hlt]; omega) ?_
    rcases hm with hm | hm
    · by_cases he : left[picks.headD 0 % left.length] = q
      · right; rw [he]; exact hq v
      · left
        obtain ⟨i, hi, hiq⟩ := List.getElem_of_mem hm
        have hne : i ≠ picks.headD 0 % left.length := by rintro rfl; exact he hiq
        rw [List.mem_eraseIdx_iff_getElem]
        exact ⟨i, hi, hne, hiq⟩
    · exact Or.inr (hk _ _ hm)

/-! ### Grants -/

theorem vector_get_ofFn {α : Type} {n : Nat} (f : Fin n → α) (i : Fin n) : (Vector.ofFn f).get i = f i := by
  simp [Vector.get]
  rfl


theorem keeps_vacateGrant (h : Keeps s t) (g : Slot) (r : EndReason) : Keeps s (vacateGrant g r t) :=
  keeps_setGrant (keeps_writeRecord h _ _ _ _ _) _ _ fun _ _ => rfl

theorem keeps_endGrant (h : Keeps s t) (g : Slot) (r : EndReason) (picks : List Nat) :
    Keeps s (endGrant g r picks t) :=
  keeps_runAll (keeps_vacateGrant h _ _) _ _

theorem keeps_grantExpires (h : Keeps s t) (g : Slot) (picks : List Nat) : Keeps s (grantExpires g picks t) := by
  unfold grantExpires
  dsimp only
  split
  · exact h
  · exact keeps_endGrant h _ _ _

/-- Grants changed each by itself, a VACANT one only to itself. -/
theorem keeps_mapGrants (h : Keeps s t) (f : Grant → Grant)
    (hf : ∀ x, (f x).state = .vacant → x.state = .vacant ∧ f x = x) :
    Keeps s { t with grants := Vector.ofFn fun i => f (t.grants.get i) } := by
  refine h.trans ⟨rfl, rfl, rfl, rfl, id, by unfold RepliesBounded repliesAt; dsimp only; exact id, ?_,
    by unfold unitAt; dsimp only; exact fun _ h => Or.inl h, id, by unfold StreamsCounted streamAt; dsimp only; exact id⟩
  intro hv i hi
  have e : grantAt i { t with grants := Vector.ofFn fun i => f (t.grants.get i) } = f (grantAt i t) :=
    vector_get_ofFn _ _
  rw [e] at hi ⊢
  obtain ⟨h1, h2⟩ := hf _ hi
  rw [h2]
  exact hv i h1

theorem keeps_activateArmed (h : Keeps s t) : Keeps s (activateArmed t) := by
  refine keeps_mapGrants h armedToActive fun x hx => ?_
  unfold armedToActive at *
  split at hx
  · cases hx
  · rename_i he
    rw [if_neg he]
    exact ⟨hx, rfl⟩

theorem keeps_vacateLapsing (h : Keeps s t) : Keeps s (vacateLapsing t) :=
  keeps_foldl _ (fun _ _ hv => keeps_vacateGrant hv _ _) _ _ h

theorem keeps_recordStart (h : Keeps s t) (g : Slot) (b : Bool) : Keeps s (recordStart g b t) :=
  keeps_writeRecord h _ _ _ _ _

theorem keeps_grantInstall (h : Keeps s t) (env : Envelope) (a : GrantArgs) : Keeps s (grantInstall env a t) := by
  unfold grantInstall
  split
  · split
    · exact keeps_answerCommand h _ _ _ _
    · refine keeps_answerCommand (keeps_recordStart (keeps_setGrant h _ _ fun _ e => ?_) _ _) _ _ _ _
      unfold installedGrant at e
      dsimp only at e
      split at e <;> cases e
  · exact keeps_answerCommand h _ _ _ _

theorem keeps_onGrant (h : Keeps s t) (env : Envelope) (code slot : Byte) (f : Slot → State → State)
    (hf : ∀ g, (grantAt g t).state ≠ .vacant → Keeps s (f g t)) : Keeps s (onGrant env code slot f t) := by
  unfold onGrant
  split
  · exact keeps_answerCommand h _ _ _ _
  · split
    · exact keeps_answerCommand h _ _ _ _
    · rename_i hn
      exact hf _ hn

theorem keeps_grantSuspend (h : Keeps s t) (env : Envelope) (slot : Byte) : Keeps s (grantSuspend env slot t) := by
  refine keeps_onGrant h _ _ _ _ fun g _ => ?_
  split
  · exact keeps_answerCommand h _ _ _ _
  · exact keeps_answerCommand (keeps_setGrant h _ _ fun _ e => by cases e) _ _ _ _

theorem keeps_grantResume (h : Keeps s t) (env : Envelope) (slot : Byte) : Keeps s (grantResume env slot t) := by
  refine keeps_onGrant h _ _ _ _ fun g hg => ?_
  dsimp only
  split
  · exact keeps_answerCommand h _ _ _ _
  · refine keeps_answerCommand (keeps_setGrant h _ _ fun _ e => ?_) _ _ _ _
    dsimp only at e
    unfold resumedState at e
    split at e
    · split at e <;> cases e
    · exact absurd e hg

theorem keeps_grantRecharge (h : Keeps s t) (env : Envelope) (slot : Byte) (n : BitVec 32) :
    Keeps s (grantRecharge env slot n t) := by
  unfold grantRecharge
  split
  · exact keeps_answerCommand h _ _ _ _
  · refine keeps_onGrant h _ _ _ _ fun g hg => ?_
    refine keeps_answerCommand (keeps_recordStart (keeps_setGrant h _ _ fun _ e => ?_) _ _) _ _ _ _
    unfold rechargedGrant at e
    dsimp only at e
    cases hs : (grantAt g t).state <;> rw [hs] at e <;> first | exact absurd hs hg | cases e

theorem keeps_grantRevoke (h : Keeps s t) (env : Envelope) (slot : Byte) (picks : List Nat) :
    Keeps s (grantRevoke env slot picks t) :=
  keeps_onGrant h _ _ _ _ fun _ _ => keeps_answerCommand (keeps_endGrant h _ _ _) _ _ _ _

theorem keeps_grantQuery (h : Keeps s t) (env : Envelope) (slot : Byte) : Keeps s (grantQuery env slot t) := by
  unfold grantQuery
  split
  · exact keeps_answerCommand h _ _ _ _
  · split
    · exact keeps_answerCommand h _ _ _ _
    · exact keeps_answerCommand h _ _ _ _

/-! ### Buses -/

theorem keeps_beginMessage (h : Keeps s t) (b : BusId) : Keeps s (beginMessage b t) := by
  unfold beginMessage
  dsimp only
  split
  · split
    · exact h
    · exact keeps_report (keeps_setBus h _ _) _
  · exact h

theorem keeps_awaitReply (h : Keeps s t) (q : QEntry) : Keeps s (awaitReply q t) := by
  unfold awaitReply
  dsimp only
  split
  · exact keeps_setUnit_claim h _ _ (by rfl)
  · exact h

theorem keeps_frameSent (h : Keeps s t) (b : BusId) : Keeps s (frameSent b t) := by
  unfold frameSent
  dsimp only
  split
  · exact h
  · split
    · exact keeps_setBus h _ _
    · split
      · exact keeps_setBus h _ _
      · exact keeps_awaitReply (keeps_setBus h _ _) _

/-- Unit records changed each by itself, FLASH-bound claims only from FLASH-bound claims. -/
theorem keeps_mapUnits (h : Keeps s t) (f : UnitRec → UnitRec)
    (hf : ∀ x, flashBound (f x).claim = true → flashBound x.claim = true) :
    Keeps s { t with units := Vector.ofFn fun u => f (t.units.get u) } := by
  refine h.trans ⟨rfl, rfl, rfl, rfl, id, id, id, fun u hu => Or.inl (hf _ ?_), id, id⟩
  have e : unitAt u { t with units := Vector.ofFn fun u => f (t.units.get u) } = f (unitAt u t) :=
    vector_get_ofFn _ _
  rwa [e] at hu

theorem keeps_emptyBus (h : Keeps s t) (b : BusId) : Keeps s (emptyBus b t) := by
  refine keeps_mapUnits (keeps_setBus h _ _) (fun un => if onBus b un then dropReplies un else un) fun x hx => ?_
  split at hx
  · exact hx
  · exact hx

theorem keeps_busOff (h : Keeps s t) (b : BusId) (picks : List Nat) : Keeps s (busOff b picks t) :=
  keeps_runAll (keeps_handBusFault (keeps_setBus (keeps_emptyBus h _) _ _)) _ _

theorem keeps_frameFailed (h : Keeps s t) (b : BusId) (picks : List Nat) : Keeps s (frameFailed b picks t) := by
  unfold frameFailed
  dsimp only
  split
  · exact h
  · split
    · exact keeps_setBus h _ _
    · split
      · exact keeps_busOff h _ _
      · exact keeps_setBus h _ _

theorem keeps_recoveryExpires (h : Keeps s t) (b : BusId) : Keeps s (recoveryExpires b t) := by
  unfold recoveryExpires
  dsimp only
  split
  · exact h
  · split
    · exact keeps_setBus h _ _
    · exact keeps_setBus h _ _

theorem keeps_sleepBus (h : Keeps s t) (b : BusId) : Keeps s (sleepBus b t) := by
  unfold sleepBus
  split
  · exact keeps_setBus (keeps_emptyBus h _) _ _
  · exact keeps_setBus h _ _
  · exact h

theorem keeps_ignFalls (h : Keeps s t) (picks : List Nat) : Keeps s (ignFalls picks t) :=
  keeps_runAll (keeps_sleepBus (keeps_sleepBus h _) _) _ _

theorem keeps_wakeBus (h : Keeps s t) (b : BusId) : Keeps s (wakeBus b t) := by
  unfold wakeBus
  split
  · exact keeps_setBus h _ _
  · exact h

theorem keeps_ignRises (h : Keeps s t) : Keeps s (ignRises t) := keeps_wakeBus (keeps_wakeBus h _) _

theorem keeps_takeWait (h : Keeps s t) (b : BusId) (u : UnitId) (a : Awaited) : Keeps s (takeWait b u a t) := by
  unfold takeWait
  split
  · exact keeps_report (keeps_setUnit_claim h _ _ (by rfl)) _
  · exact keeps_report (keeps_report (keeps_completeOut h _ _) _) _

theorem keeps_takeReply (h : Keeps s t) (b : BusId) (u : UnitId) (body : List Byte) :
    Keeps s (takeReply b u body t) := by
  unfold takeReply
  split
  · exact keeps_report h _
  · split
    · exact keeps_report h _
    · exact keeps_completeOut h _ _
    · exact keeps_completeOut h _ _
    · exact keeps_takeWait h _ _ _

theorem keeps_unitFrame (h : Keeps s t) (b : BusId) (id : CanId) (frame : List Byte) :
    Keeps s (unitFrame b id frame t) := by
  unfold unitFrame
  split
  · split
    · dsimp only
      split
      · exact keeps_takeReply (keeps_setUnit_claim h _ _ (by rfl)) _ _ _
      · exact keeps_setUnit_claim h _ _ (by rfl)
    · exact h
  · exact h

theorem keeps_replyTimerExpires (h : Keeps s t) (u : UnitId) : Keeps s (replyTimerExpires u t) := by
  unfold replyTimerExpires
  split
  · exact h
  · exact keeps_report (keeps_completeOut h _ _) _

/-! ### Monitor and trail -/

theorem keeps_sampleExpires (h : Keeps s t) : Keeps s (sampleExpires t) := by
  unfold sampleExpires
  dsimp only
  split
  · exact keeps_monitor h _
  · exact keeps_addCounts (keeps_monitor h _) _

theorem keeps_monitorSetup (h : Keeps s t) (env : Envelope) (a : SetupArgs) : Keeps s (monitorSetup env a t) := by
  unfold monitorSetup
  split
  · exact keeps_answerCommand h _ _ _ _
  · split
    · exact keeps_answerCommand (keeps_monitor h _) _ _ _ _
    · exact keeps_answerCommand h _ _ _ _

theorem keeps_monitorSetupGlobal (h : Keeps s t) (env : Envelope) (a b : Byte) :
    Keeps s (monitorSetupGlobal env a b t) := by
  unfold monitorSetupGlobal
  split
  · exact keeps_answerCommand h _ _ _ _
  · exact keeps_answerCommand (keeps_monitor h _) _ _ _ _

theorem keeps_monitorRead (h : Keeps s t) (env : Envelope) (a : Byte) : Keeps s (monitorRead env a t) := by
  unfold monitorRead
  split
  · exact keeps_answerCommand h _ _ _ _
  · split
    · exact keeps_answerCommand h _ _ _ _
    · exact keeps_answerCommand h _ _ _ _

theorem keeps_monitorPreload (h : Keeps s t) (env : Envelope) (a : Byte) (v : BitVec 32) :
    Keeps s (monitorPreload env a v t) := by
  unfold monitorPreload
  split
  · exact keeps_answerCommand (keeps_monitor h _) _ _ _ _
  · exact keeps_answerCommand h _ _ _ _

theorem keeps_monitorAcknowledge (h : Keeps s t) (env : Envelope) (a : Byte) (g : BitVec 32) (f : Byte) :
    Keeps s (monitorAcknowledge env a g f t) :=
  keeps_answerCommand (keeps_monitor h _) _ _ _ _

theorem keeps_freezeCommand (h : Keeps s t) (env : Envelope) : Keeps s (freezeCommand env t) :=
  keeps_answerCommand (keeps_freezeTrigger h _) _ _ _ _

theorem keeps_unfreezeCommand (h : Keeps s t) (env : Envelope) : Keeps s (unfreezeCommand env t) := by
  unfold unfreezeCommand
  split
  · exact keeps_answerCommand h _ _ _ _
  · exact keeps_answerCommand (keeps_writeRecord (keeps_monitor h _) _ _ _ _ _) _ _ _ _

theorem keeps_dropRecords (h : Keeps s t) (n : Nat) : Keeps s (dropRecords n t) :=
  keeps_trail h _ _ (trailNumbered_drop _ _)

theorem keeps_trailRead (h : Keeps s t) (env : Envelope) (n : Byte) : Keeps s (trailRead env n t) := by
  unfold trailRead
  split
  · exact keeps_answerCommand h _ _ _ _
  · exact keeps_answerCommand (keeps_dropRecords h _) _ _ _ _

/-! ### Supervisor commands -/

theorem keeps_unitDefine (h : Keeps s t) (env : Envelope) (a : UnitArgs) : Keeps s (unitDefine env a t) := by
  unfold unitDefine
  split
  · split
    · exact keeps_answerCommand h _ _ _ _
    · split
      · exact keeps_answerCommand h _ _ _ _
      · exact keeps_answerCommand (keeps_setUnit_claim h _ _ (by rfl)) _ _ _ _
  · exact keeps_answerCommand h _ _ _ _

theorem keeps_unitClear (h : Keeps s t) (env : Envelope) (u : Byte) : Keeps s (unitClear env u t) := by
  unfold unitClear
  split
  · exact keeps_answerCommand h _ _ _ _
  · split
    · exact keeps_answerCommand h _ _ _ _
    · exact keeps_answerCommand (keeps_setUnit_claim h _ _ (by rfl)) _ _ _ _

theorem keeps_claimEnd (h : Keeps s t) (env : Envelope) (u : Byte) : Keeps s (claimEnd env u t) := by
  unfold claimEnd
  split
  · exact keeps_answerCommand h _ _ _ _
  · split
    · exact keeps_answerCommand h _ _ _ _
    · exact keeps_answerCommand (keeps_leaveClaim h _ _) _ _ _ _

theorem keeps_channelHalt (h : Keeps s t) (env : Envelope) (p i : Byte) : Keeps s (channelHalt env p i t) := by
  unfold channelHalt
  split
  · exact keeps_answerCommand h _ _ _ _
  · split
    · exact keeps_answerCommand h _ _ _ _
    · exact keeps_answerCommand (keeps_setChan h _ _) _ _ _ _
    · exact keeps_answerCommand (keeps_haltEntry h _ _) _ _ _ _

theorem keeps_channelClear (h : Keeps s t) (env : Envelope) (p i : Byte) : Keeps s (channelClear env p i t) := by
  unfold channelClear
  split
  · exact keeps_answerCommand h _ _ _ _
  · split
    · split
      · exact keeps_answerCommand h _ _ _ _
      · exact keeps_answerCommand (keeps_clearChannel h _) _ _ _ _
    · exact keeps_answerCommand h _ _ _ _

theorem keeps_spt (h : Keeps s t) (p : ServicePort) : Keeps s { t with spt := p } :=
  keeps_of_eq h rfl rfl rfl rfl rfl rfl rfl rfl rfl rfl

theorem keeps_portSetup (h : Keeps s t) (env : Envelope) (a b : BitVec 16) : Keeps s (portSetup env a b t) := by
  unfold portSetup
  split
  · exact keeps_answerCommand h _ _ _ _
  · split
    · exact keeps_answerCommand h _ _ _ _
    · exact keeps_answerCommand (keeps_spt h _) _ _ _ _

theorem keeps_statusRead (h : Keeps s t) (env : Envelope) : Keeps s (statusRead env t) := keeps_answerCommand h _ _ _ _

/-- A slot of the empty grant table. -/
theorem vacantClean_replicate (v : State) (h : v.grants = Vector.replicate 32 Grant.vacant) : VacantClean v := by
  intro g _
  simp [grantAt, h, Vector.get]

/-- No context is bound. -/
theorem streamsCounted_replicate (v : State) (h : v.streams = Vector.replicate 4 none) : StreamsCounted v := by
  intro k x hx
  simp [streamAt, h, Vector.get] at hx

theorem repliesBounded_nil (v : State) (h : v.replies = ⟨[], [], []⟩) : RepliesBounded v := by
  intro p
  cases p <;> simp [repliesAt, h, PerPort.get]

theorem keeps_resetBlocks (h : Keeps s t) : Keeps s (resetBlocks t) := by
  refine h.trans ⟨rfl, rfl, rfl, rfl, id, fun _ => repliesBounded_nil _ rfl, fun _ => vacantClean_replicate _ rfl,
    fun u hu => ?_, fun _ => ⟨Nat.zero_le _, fun _ => rfl⟩, fun _ => streamsCounted_replicate _ rfl⟩
  have e : (unitAt u (resetBlocks t)).claim = Claim.free := by
    simp [unitAt, resetBlocks, Vector.get, resetUnit, UnitRec.initial]
  rw [e] at hu
  exact absurd hu (by decide)

theorem keeps_gatewayReset (h : Keeps s t) (env : Envelope) : Keeps s (gatewayReset env t) :=
  keeps_answerCommand (keeps_writeRecord (keeps_resetBlocks h) _ _ _ _ _) _ _ _ _

theorem keeps_runCommand (h : Keeps s t) (env : Envelope) (q : Command) (picks : List Nat) :
    Keeps s (runCommand env q picks t) := by
  unfold runCommand
  split
  · exact keeps_grantInstall h _ _
  · exact keeps_grantSuspend h _ _
  · exact keeps_grantResume h _ _
  · exact keeps_grantRecharge h _ _ _
  · exact keeps_grantRevoke h _ _ _
  · exact keeps_grantQuery h _ _
  · exact keeps_unitDefine h _ _
  · exact keeps_unitClear h _ _
  · exact keeps_claimEnd h _ _
  · exact keeps_channelHalt h _ _ _
  · exact keeps_channelClear h _ _ _
  · exact keeps_monitorSetup h _ _
  · exact keeps_monitorSetupGlobal h _ _ _
  · exact keeps_answerCommand h _ _ _ _
  · exact keeps_monitorRead h _ _
  · exact keeps_monitorPreload h _ _ _
  · exact keeps_monitorAcknowledge h _ _ _ _
  · exact keeps_freezeCommand h _
  · exact keeps_unfreezeCommand h _
  · exact keeps_trailRead h _ _
  · exact keeps_portSetup h _ _ _
  · exact keeps_statusRead h _
  · exact keeps_gatewayReset h _

theorem keeps_deliverCommand (h : Keeps s t) (env : Envelope) (body : List Byte) (picks : List Nat) :
    Keeps s (deliverCommand env body picks t) := by
  unfold deliverCommand
  split
  · exact keeps_runCommand h _ _ _
  · exact keeps_answerCommand h _ _ _ _

/-! ### Ports -/

theorem keeps_faultSegment (h : Keeps s t) (i : Fin 4) (b : Buf) : Keeps s (faultSegment i b t) :=
  keeps_answerOwn (keeps_spt h _) _ _ _ _

theorem keeps_takeSptSegment (h : Keeps s t) (g : Segment) : Keeps s (takeSptSegment g t) := by
  unfold takeSptSegment
  split
  · exact keeps_faultSegment h _ _
  · exact keeps_spt h _
  · exact keeps_deliver (keeps_spt h _) _ _ _

theorem keeps_signOfPresence (h : Keeps s t) : Keeps s (signOfPresence t) := by
  unfold signOfPresence
  dsimp only
  split
  · exact keeps_spt h _
  · exact keeps_activateArmed (keeps_spt h _)

theorem keeps_sptFrame (h : Keeps s t) (id : CanId) (frame : List Byte) : Keeps s (sptFrame id frame t) := by
  unfold sptFrame
  split
  · split
    · exact h
    · split
      · exact keeps_takeSptSegment (keeps_signOfPresence h) _
      · exact h
  · exact h

theorem keeps_gapExpires (h : Keeps s t) (i : Fin 4) : Keeps s (gapExpires i t) := by
  unfold gapExpires
  split
  · exact h
  · exact keeps_faultSegment h _ _

theorem keeps_emptySptReplies (h : Keeps s t) : Keeps s (emptySptReplies t) :=
  keeps_setReplies h _ _ fun _ => Nat.zero_le _

theorem keeps_linkDown (h : Keeps s t) (picks : List Nat) : Keeps s (linkDown picks t) :=
  keeps_emptySptReplies (keeps_runAll (keeps_vacateLapsing (keeps_emptySptReplies (keeps_spt h _))) _ _)

theorem keeps_linkTimerExpires (h : Keeps s t) (picks : List Nat) : Keeps s (linkTimerExpires picks t) := by
  unfold linkTimerExpires
  split
  · exact h
  · exact keeps_linkDown h _

theorem keeps_transmitReply (h : Keeps s t) : Keeps s (transmitReply t) := by
  unfold transmitReply
  split
  · exact keeps_spt h _
  · exact h

/-- A reply queue that loses its head. -/
theorem keeps_dropReply (h : Keeps s t) (p : Port) (r : Reply) (rest : List Reply)
    (he : repliesAt p t = r :: rest) : Keeps s (setReplies p rest t) :=
  keeps_setReplies h p rest fun hb => by
    have := hb p
    rw [he] at this
    simp only [List.length_cons] at this
    omega

theorem keeps_replyFrameDone (h : Keeps s t) (b : Bool) : Keeps s (replyFrameDone b t) := by
  unfold replyFrameDone
  split
  · exact h
  · split
    · unfold replyFrameSent
      split
      · rename_i k r rest hk hr
        split
        · exact keeps_spt h _
        · exact keeps_dropReply (keeps_spt h _) .spt r rest hr
      · exact keeps_spt h _
    · unfold replyFrameFailed
      split
      · exact h
      · exact keeps_spt h _

theorem keeps_setMiso (h : Keeps s t) (p : SpiPort) (b : List Byte) : Keeps s (setMiso p b t) := by
  cases p
  · exact keeps_of_eq h rfl rfl rfl rfl rfl rfl rfl rfl rfl rfl
  · exact keeps_of_eq h rfl rfl rfl rfl rfl rfl rfl rfl rfl rfl

theorem setMiso_replies (p : SpiPort) (b : List Byte) (s : State) : (setMiso p b s).replies = s.replies := by
  cases p <;> rfl

theorem keeps_spiReadReply (h : Keeps s t) (p : SpiPort) (n : Nat) : Keeps s (spiReadReply p n t) := by
  unfold spiReadReply
  split
  · exact keeps_setMiso h _ _
  · rename_i r rest hr
    dsimp only
    split
    · refine keeps_dropReply (keeps_setMiso h _ _) _ r rest ?_
      unfold repliesAt at *
      rw [setMiso_replies]
      exact hr
    · exact keeps_setMiso h _ _

theorem keeps_spiReadStatus (h : Keeps s t) (p : SpiPort) (n : Nat) : Keeps s (spiReadStatus p n t) :=
  keeps_setMiso h _ _

theorem keeps_spiMessage (h : Keeps s t) (p : SpiPort) (e : Byte) (rest : List Byte) (picks : List Nat) :
    Keeps s (spiMessage p e rest picks t) := by
  unfold spiMessage
  dsimp only
  split
  · exact keeps_answerOwn h _ _ _ _
  · split
    · exact keeps_deliverCommand h _ _ _
    · exact keeps_deliver h _ _ _

theorem keeps_spiTransaction (h : Keeps s t) (p : SpiPort) (mosi : List Byte) (picks : List Nat) :
    Keeps s (spiTransaction p mosi picks t) := by
  unfold spiTransaction spiWrite
  split
  · exact h
  · split
    · split
      · exact keeps_setMiso h _ _
      · exact keeps_spiMessage (keeps_setMiso h _ _) _ _ _ _
    · split
      · exact keeps_spiReadReply h _ _
      · split
        · exact keeps_spiReadStatus h _ _
        · exact keeps_setMiso h _ _

/-! ### Lines and time -/

/-- A raw line's change keeps every law; the raw line itself changes. -/
theorem keeps_rawChange (h : Keeps s t) (l : Line) (b : Bool) :
    Keeps { s with raw := (rawChange l b t).raw } (rawChange l b t) := by
  have e : ∀ v : State, v.pending = t.pending → v.inReset = t.inReset → v.filtered = t.filtered → v.trail = t.trail →
      v.replies = t.replies → v.grants = t.grants → v.units = t.units → v.map = t.map → v.streams = t.streams →
      Keeps { s with raw := v.raw } v := by
    intro v e1 e2 e4 e5 e6 e7 e8 e9 e10
    refine ⟨e1.trans h.pending, e2.trans h.inReset, rfl, e4.trans h.filtered, ?_, ?_, ?_, ?_, ?_, ?_⟩
    · rw [e5]; exact h.trail
    · intro hr p; have := h.replies hr p; unfold repliesAt at *; rw [e6]; exact this
    · intro hv g; have := h.vacant hv g; unfold grantAt at *; rw [e7]; exact this
    · intro u hu; have := h.flash u; unfold unitAt at *; rw [e8] at hu; exact this hu
    · rw [e9]; exact h.map
    · intro hs k x; have := h.streams hs k x; unfold streamAt at *; rw [e10]; exact this
  unfold rawChange
  split
  · exact e _ rfl rfl rfl rfl rfl rfl rfl rfl rfl
  · exact e _ rfl rfl rfl rfl rfl rfl rfl rfl rfl

theorem keeps_edge (h : Keeps s t) (l : Line) (b : Bool) (picks : List Nat) : Keeps s (edge l b picks t) := by
  unfold edge
  split
  · exact keeps_runAll h _ _
  · exact keeps_runAll h _ _
  · exact keeps_ignRises h
  · exact keeps_ignFalls h _
  · exact h
  · exact h

/-- After a claim's leaving, with RUN or MOVE asserted, it is not FLASH-bound. -/
theorem flashBound_interlockClaim (u : UnitId) (v : State) (hf : flashInterlocked v = true) :
    flashBound (unitAt u (runConsequence (.interlockClaim u) v)).claim = false := by
  unfold runConsequence
  dsimp only
  split
  · rename_i hb
    have hc : canLeave (unitAt u v).claim = true := by
      unfold flashBound at hb
      unfold canLeave
      cases hs : (unitAt u v).claim.state <;> simp_all
    by_contra hn
    rw [Bool.not_eq_false] at hn
    have h0 : Keeps (setUnit u { unitAt u v with
        claim := leavingClaim (unitAt u v).claim .interlock, claimTimer := none } v)
        (leaveClaim u .interlock v) := by
      have h1 := Keeps.refl (setUnit u { unitAt u v with
        claim := leavingClaim (unitAt u v).claim .interlock, claimTimer := none } v)
      unfold leaveClaim leaveClaimSparing
      dsimp only
      rw [if_pos hc]
      have h3 := keeps_placeEntry (s := setUnit u { unitAt u v with
          claim := leavingClaim (unitAt u v).claim .interlock, claimTimer := none } v)
        (t := if (unitAt u v).claim.state = .entering then
          withdrawEntries u isModeEnter (leavingAnswer (some .interlock))
            (setUnit u { unitAt u v with
              claim := leavingClaim (unitAt u v).claim .interlock, claimTimer := none } v)
          else setUnit u { unitAt u v with
            claim := leavingClaim (unitAt u v).claim .interlock, claimTimer := none } v)
        (by split
            · exact keeps_withdrawEntries h1 _ _ _
            · exact h1) u baseEntry
      split
      · split
        · exact h3
        · exact keeps_endHolderWork h3 _ _ _
      · exact h3
    rcases h0.flash u hn with h2 | h2
    · rw [unitAt_setUnit] at h2
      exact absurd h2 (by simp [flashBound, leavingClaim])
    · have : flashInterlocked v = false := h2
      rw [this] at hf
      exact absurd hf (by decide)
  · rename_i hb
    simpa using hb

/-- One millisecond passes: every law is kept. -/
theorem keeps_tick (h : Keeps s t) : Keeps s (tick t) := by
  refine h.trans ⟨rfl, rfl, rfl, rfl, id, id, ?_, fun u hu => Or.inl ?_, id, ?_⟩
  · intro hv g hg
    have e : grantAt g (tick t) = tickGrant (grantAt g t) := vector_get_ofFn _ _
    rw [e] at hg ⊢
    have hs : (grantAt g t).state = .vacant := by
      unfold tickGrant at hg
      split at hg
      · exact hg
      · split at hg
        · exact hg
        · split at hg
          · exact hg
          · exact hg
    unfold tickGrant
    rw [if_pos (Or.inl hs)]
    exact hv g hs
  · have e : unitAt u (tick t) = tickUnit (unitAt u t) := vector_get_ofFn _ _
    rw [e] at hu
    exact hu
  · intro hs k x hx
    have e : streamAt k (tick t) = (streamAt k t).map tickStream := vector_get_ofFn _ _
    rw [e] at hx
    cases hk : streamAt k t with
    | none => rw [hk] at hx; cases hx
    | some y =>
      rw [hk] at hx
      cases hx
      exact hs k y hk

end Sys2Proof.Machine
end

