-- ==== Sys2Proof/Laws/Winds.lean ====
section
/-! SUPPORT. What the ends of work leave alone: the relation `Winds`, and one lemma for each operation by which a
claim's, a channel's, a grant's, a bus's or an edge's end takes work away. Nothing is started by them: claims only leave,
streams only conclude, jobs only go, closed channels stay closed, and every table they do not own is unchanged. -/

namespace Sys2Proof.Machine

theorem SameJob.refl (j : Job) : SameJob j j := ⟨rfl, rfl, rfl, rfl, rfl⟩

theorem SameJob.trans {i j k : Job} (h : SameJob k j) (g : SameJob j i) : SameJob k i :=
  ⟨h.1.trans g.1, h.2.1.trans g.2.1, h.2.2.1.trans g.2.2.1, h.2.2.2.1.trans g.2.2.2.1, h.2.2.2.2.trans g.2.2.2.2⟩

theorem LaterStream.refl (x : Stream) : LaterStream x x := ⟨rfl, rfl, rfl, fun h => ⟨h, rfl⟩⟩

theorem LaterStream.trans {x y z : Stream} (h : LaterStream z y) (g : LaterStream y x) : LaterStream z x :=
  ⟨h.1.trans g.1, h.2.1.trans g.2.1, h.2.2.1.trans g.2.2.1, fun e =>
    ⟨(h.2.2.2 (g.2.2.2 e).1).1, (h.2.2.2 (g.2.2.2 e).1).2.trans (g.2.2.2 e).2⟩⟩

theorem StillClosed.refl (x : Channel) : StillClosed x x := fun h => ⟨h, id, id, id⟩

theorem StillClosed.trans {x y z : Channel} (h : StillClosed x y) (g : StillClosed y z) : StillClosed x z := fun e =>
  ⟨(g (h e).1).1, fun a => (g (h e).1).2.1 ((h e).2.1 a), fun a => (g (h e).1).2.2.1 ((h e).2.2.1 a),
    fun a => (g (h e).1).2.2.2 ((h e).2.2.2 a)⟩

theorem Winds.refl (s : State) : Winds s s :=
  ⟨rfl, rfl, rfl, rfl, rfl, rfl, rfl, rfl, rfl, fun _ => rfl, fun _ => rfl, fun _ _ => rfl,
    fun _ y h => ⟨y, h, LaterStream.refl y⟩, fun j h => ⟨j, h, SameJob.refl j⟩, fun _ => StillClosed.refl _⟩

theorem Winds.trans {s t v : State} (h : Winds s t) (k : Winds t v) : Winds s v where
  pending := k.pending.trans h.pending
  inReset := k.inReset.trans h.inReset
  raw := k.raw.trans h.raw
  filtered := k.filtered.trans h.filtered
  filterTimers := k.filterTimers.trans h.filterTimers
  grants := k.grants.trans h.grants
  spt := k.spt.trans h.spt
  miso := k.miso.trans h.miso
  moment := k.moment.trans h.moment
  defs := fun u => (k.defs u).trans (h.defs u)
  busStates := fun b => (k.busStates b).trans (h.busStates b)
  claims := fun u hu => by
    have e := k.claims u hu
    rw [e] at hu ⊢
    exact h.claims u hu
  streams := fun j z hz => by
    obtain ⟨y, hy, l⟩ := k.streams j z hz
    obtain ⟨x, hx, m⟩ := h.streams j y hy
    exact ⟨x, hx, l.trans m⟩
  jobs := fun j hj => by
    obtain ⟨i, hi, l⟩ := k.jobs j hj
    obtain ⟨n, hn, m⟩ := h.jobs i hi
    exact ⟨n, hn, l.trans m⟩
  closed := fun c => (h.closed c).trans (k.closed c)

variable {s t : State}

/-! ### Primitive updates -/

theorem winds_setChan (h : Winds s t) (c : ChanId) (x : Channel)
    (hx : StillClosed (chanAt c t) x) : Winds s (setChan c x t) := by
  refine h.trans ⟨rfl, rfl, rfl, rfl, rfl, rfl, rfl, rfl, rfl, fun _ => rfl, fun _ => rfl, fun _ _ => rfl,
    fun _ y h => ⟨y, h, LaterStream.refl y⟩, fun j h => ⟨j, h, SameJob.refl j⟩, fun d => ?_⟩
  by_cases e : c = d
  · subst e; rw [chanAt_setChan]; exact hx
  · rw [chanAt_setChan_ne _ _ _ _ e]; exact StillClosed.refl _

theorem winds_setBus (h : Winds s t) (b : BusId) (x : Bus) (hx : x.state = (busAt b t).state) :
    Winds s (setBus b x t) := by
  refine h.trans ⟨rfl, rfl, rfl, rfl, rfl, rfl, rfl, rfl, rfl, fun _ => rfl, fun d => ?_, fun _ _ => rfl,
    fun _ y h => ⟨y, h, LaterStream.refl y⟩, fun j h => ⟨j, h, SameJob.refl j⟩, fun _ => StillClosed.refl _⟩
  by_cases e : b = d
  · subst e; rw [busAt_setBus]; exact hx
  · rw [busAt_setBus_ne _ _ _ _ e]

theorem winds_setUnit (h : Winds s t) (u : UnitId) (x : UnitRec) (hd : x.defn = (unitAt u t).defn)
    (hc : canLeave x.claim = true → x.claim = (unitAt u t).claim) : Winds s (setUnit u x t) := by
  refine h.trans ⟨rfl, rfl, rfl, rfl, rfl, rfl, rfl, rfl, rfl, fun v => ?_, fun _ => rfl, fun v hv => ?_,
    fun _ y h => ⟨y, h, LaterStream.refl y⟩, fun j h => ⟨j, h, SameJob.refl j⟩, fun _ => StillClosed.refl _⟩
  · by_cases e : u = v
    · subst e; rw [unitAt_setUnit]; exact hd
    · rw [unitAt_setUnit_ne _ _ _ _ e]
  · by_cases e : u = v
    · subst e; rw [unitAt_setUnit] at hv ⊢; exact hc hv
    · rw [unitAt_setUnit_ne _ _ _ _ e]

theorem winds_setStream {x : Stream} (h : Winds s t) (k : CtxId) (hx : streamAt k t = some x) (y : Stream)
    (hy : LaterStream y x) : Winds s (setStream k (some y) t) := by
  refine h.trans ⟨rfl, rfl, rfl, rfl, rfl, rfl, rfl, rfl, rfl, fun _ => rfl, fun _ => rfl, fun _ _ => rfl,
    fun j z hz => ?_, fun j h => ⟨j, h, SameJob.refl j⟩, fun _ => StillClosed.refl _⟩
  by_cases e : k = j
  · subst e; rw [streamAt_setStream] at hz; cases hz; exact ⟨x, hx, hy⟩
  · rw [streamAt_setStream_ne _ _ _ _ e] at hz; exact ⟨z, hz, LaterStream.refl z⟩

theorem winds_setMap (h : Winds s t) (m : MapEngine)
    (hm : ∀ j ∈ jobsOf m, ∃ i ∈ jobsOf t.map, SameJob j i) : Winds s (setMap m t) :=
  h.trans ⟨rfl, rfl, rfl, rfl, rfl, rfl, rfl, rfl, rfl, fun _ => rfl, fun _ => rfl, fun _ _ => rfl,
    fun _ y h => ⟨y, h, LaterStream.refl y⟩, hm, fun _ => StillClosed.refl _⟩

theorem winds_setReplies (h : Winds s t) (p : Port) (q : List Reply) : Winds s (setReplies p q t) :=
  h.trans ⟨rfl, rfl, rfl, rfl, rfl, rfl, rfl, rfl, rfl, fun _ => rfl, fun _ => rfl, fun _ _ => rfl,
    fun _ y h => ⟨y, h, LaterStream.refl y⟩, fun j h => ⟨j, h, SameJob.refl j⟩, fun _ => StillClosed.refl _⟩

/-- The trail and the monitor are the observers' own. -/
theorem winds_observed (h : Winds s t) (x : Trail) (m : Monitor) : Winds s { t with trail := x, monitor := m } :=
  h.trans ⟨rfl, rfl, rfl, rfl, rfl, rfl, rfl, rfl, rfl, fun _ => rfl, fun _ => rfl, fun _ _ => rfl,
    fun _ y h => ⟨y, h, LaterStream.refl y⟩, fun j h => ⟨j, h, SameJob.refl j⟩, fun _ => StillClosed.refl _⟩

/-! ### Flags and channels -/

theorem winds_writeRecord (h : Winds s t) (a : Option Port) (b : Option ChanId) (c : Option Slot)
    (d : Option UnitId) (e : Detail) : Winds s (writeRecord a b c d e t) :=
  winds_observed h _ _

theorem winds_freezeTrigger (h : Winds s t) (cause : FreezeCause) : Winds s (freezeTrigger cause t) := by
  unfold freezeTrigger
  split
  · exact h
  · exact winds_writeRecord (winds_observed h t.trail _) _ _ _ _ _

theorem winds_report (h : Winds s t) (r : Report) : Winds s (report r t) := by
  unfold report addCounts
  dsimp only
  split
  · exact h
  · split
    · exact winds_freezeTrigger (winds_observed h t.trail _) _
    · exact winds_observed h t.trail _

theorem dropStaged_state (x : Channel) : (dropStaged x).state = x.state := by
  unfold dropStaged freeBuffer setBuffer
  split
  · rename_i b _; cases b <;> rfl
  · rfl

theorem winds_haltEntry (h : Winds s t) (c : ChanId) (k : HaltCause) : Winds s (haltEntry c k t) := by
  unfold haltEntry
  dsimp only
  split
  · rename_i hw
    refine winds_setChan h _ _ fun hc => ?_
    unfold isWorking at hw
    rw [hc] at hw
    cases hw
  · exact h

theorem winds_offerReply (h : Winds s t) (r : Reply) (a : Bool) : Winds s (offerReply r a t) := by
  unfold offerReply
  dsimp only
  split
  · exact winds_setReplies h _ _
  · split
    · exact winds_haltEntry (winds_report h _) _ _
    · exact winds_report h _

theorem clearActive_closed (b : Buf) (x : Channel) : StillClosed x (clearActive b x) := by
  intro h
  cases b <;> simp [clearActive, settleChan, stateOfWork, isWorking, freeBuffer, setBuffer, h]

theorem closedChannel_closed (x : Channel) : StillClosed x (closedChannel x) := by
  intro _
  refine ⟨rfl, fun h => ?_, fun _ => rfl, fun _ => rfl⟩
  unfold closedChannel dropStaged
  rw [h]
  exact h

theorem winds_completeActive (h : Winds s t) (c : ChanId) (st : Status) (p : List Byte) :
    Winds s (completeActive c st p t) := by
  unfold completeActive
  split
  · exact h
  · dsimp only
    split
    · exact winds_setChan (winds_offerReply h _ _) _ _ (clearActive_closed _ _)
    · exact winds_setChan h _ _ (clearActive_closed _ _)

/-- A fold of winding operations winds. -/
theorem winds_foldl {α : Type} (f : State → α → State) (hf : ∀ v a, Winds s v → Winds s (f v a)) (l : List α) :
    ∀ v, Winds s v → Winds s (l.foldl f v) := by
  induction l with
  | nil => intro v h; exact h
  | cons a l ih => intro v h; exact ih _ (hf v a h)

/-! ### Units -/

theorem winds_enterQueue (h : Winds s t) (u : UnitId) (e : Entry) : Winds s (enterQueue u e t) := by
  unfold enterQueue
  dsimp only
  split
  · exact h
  · exact winds_setUnit (winds_setBus h _ _ (by rfl)) _ _ (by simp) (fun _ => by simp)

theorem winds_placeEntry (h : Winds s t) (u : UnitId) (e : Entry) : Winds s (placeEntry u e t) := by
  unfold placeEntry
  dsimp only
  split
  · exact winds_enterQueue (winds_setUnit h _ _ (by rfl) (fun _ => by rfl)) _ _
  · exact winds_setUnit h _ _ (by rfl) (fun _ => by rfl)

theorem winds_promoteWait (h : Winds s t) (u : UnitId) : Winds s (promoteWait u t) := by
  unfold promoteWait makeOutstanding
  dsimp only
  split
  · exact winds_enterQueue (winds_setUnit (winds_setUnit h _ _ (by rfl) (fun _ => by rfl)) _ _ (by simp)
      (fun _ => by simp)) _ _
  · exact h

/-! ### Streams -/

theorem winds_answerEnding (h : Winds s t) (k : CtxId) : Winds s (answerEnding k t) := by
  unfold answerEnding
  split
  · exact h
  · rename_i x hx
    split
    · exact h
    · exact winds_completeActive (winds_setStream h k hx _ (by exact LaterStream.refl x)) _ _ _

theorem winds_concludeStream (h : Winds s t) (k : CtxId) (c : Concluded) : Winds s (concludeStream k c t) := by
  unfold concludeStream
  split
  · exact h
  · rename_i x hx
    split
    · exact h
    · rename_i hn
      have h1 := winds_setStream h k hx
        { x with state := .concluded, concluded := some c, slotB := [], idle := none }
        ⟨rfl, rfl, rfl, fun e => absurd e hn⟩
      dsimp only
      split
      · exact winds_answerEnding h1 _
      · exact h1

theorem winds_withdrawStream (h : Winds s t) (k : CtxId) : Winds s (withdrawStream k t) := by
  unfold withdrawStream
  split
  · exact h
  · rename_i x hx
    dsimp only
    refine winds_answerEnding (winds_setStream h k hx _ ?_) _
    split
    · exact LaterStream.refl x
    · rename_i hn
      exact ⟨rfl, rfl, rfl, fun e => absurd e hn⟩

/-- A block that ends without the unit's answer. -/
theorem winds_blockDone_ended (h : Winds s t) (k : CtxId) (st : Status) : Winds s (blockDone k (.ended st) t) := by
  unfold blockDone
  split
  · exact h
  · rename_i x hx
    split
    · exact h
    · have hn := winds_setStream h k hx { x with slotA := none } ⟨rfl, rfl, rfl, fun e => ⟨e, rfl⟩⟩
      split
      · exact absurd ‹Result.ended st = Result.positive _› (by simp)
      · exact absurd ‹Result.ended st = Result.positive _› (by simp)
      · exact winds_answerEnding hn _
      · exact winds_concludeStream hn _ _

/-! ### The map engine -/

theorem jobsOf_placesOf (l : List Job) (r : Option RowSlot) : jobsOf (placesOf l r) = l := by
  cases l <;> rfl

theorem winds_endJobs (h : Winds s t) (p : Job → Bool) (st : Status) : Winds s (endJobs p st t) := by
  unfold endJobs
  dsimp only
  have h1 := winds_foldl (s := t) (fun v j => answerJob j st [] v)
    (fun v j hv => winds_completeActive hv _ _ _) ((jobsOf t.map).filter p) t (Winds.refl t)
  have e : (((jobsOf t.map).filter p).foldl (fun v j => answerJob j st [] v) t).map = t.map := by
    generalize (jobsOf t.map).filter p = l
    clear h1
    have : ∀ v : State, (l.foldl (fun v j => answerJob j st [] v) v).map = v.map := by
      induction l with
      | nil => intro v; rfl
      | cons a l ih => intro v; rw [List.foldl_cons, ih, answerJob_map]
    exact this t
  refine h.trans (winds_setMap h1 _ ?_)
  intro j hj
  rw [jobsOf_placesOf, List.mem_filter] at hj
  exact ⟨j, by rw [e]; exact hj.1, SameJob.refl j⟩

theorem winds_endActive (h : Winds s t) (j : Job) (st : Status) (q : List Byte) : Winds s (endActive j st q t) := by
  unfold endActive
  dsimp only
  refine winds_setMap (winds_completeActive h _ _ _) _ ?_
  intro i hi
  rw [jobsOf_placesOf] at hi
  exact ⟨i, by unfold jobsOf; exact List.mem_append_right _ hi, SameJob.refl i⟩

theorem winds_clearSlot (h : Winds s t) : Winds s (setMap { t.map with slot := none } t) :=
  winds_setMap h _ fun j hj => ⟨j, hj, SameJob.refl j⟩

/-- A row request that ends without the unit's answer. -/
theorem winds_rowDone_ended (h : Winds s t) (st : Status) : Winds s (rowDone (.ended st) t) := by
  unfold rowDone
  split
  · exact h
  · split
    · exact winds_clearSlot h
    · exact winds_clearSlot h
    · rename_i j _ hj
      refine winds_endActive (winds_setMap h _ ?_) _ _ _
      intro i hi
      unfold jobsOf at hi
      simp only [Option.toList_some, List.mem_append, List.mem_singleton] at hi
      rcases hi with rfl | hi
      · exact ⟨j, by unfold jobsOf; rw [hj]; simp, ⟨rfl, rfl, rfl, rfl, rfl⟩⟩
      · exact ⟨i, by unfold jobsOf; exact List.mem_append_right _ hi, SameJob.refl i⟩

/-! ### Claims -/

theorem winds_freeClaim (h : Winds s t) (u : UnitId) : Winds s (freeClaim u t) :=
  winds_setUnit h _ _ (by rfl) (fun e => by cases e)

theorem winds_answerRelease (h : Winds s t) (cl : Claim) : Winds s (answerRelease cl t) := by
  unfold answerRelease
  split
  · exact winds_completeActive h _ _ _
  · exact h

theorem winds_deliverResult_ended (h : Winds s t) (u : UnitId) (e : Entry) (st : Status) :
    Winds s (deliverResult u e (.ended st) t) := by
  unfold deliverResult
  split
  · split
    · exact winds_completeActive h _ _ _
    · exact winds_completeActive h _ _ _
  · exact winds_blockDone_ended h _ _
  · exact winds_rowDone_ended h _
  · exact h

theorem winds_completeOut_ended (h : Winds s t) (u : UnitId) (st : Status) :
    Winds s (completeOut u (.ended st) t) := by
  unfold completeOut
  split
  · exact h
  · exact winds_setUnit (winds_deliverResult_ended h _ _ _) _ _ (by rfl) (fun _ => by rfl)

theorem winds_unqueue (h : Winds s t) (u : UnitId) : Winds s (unqueue u t) := by
  unfold unqueue
  split
  · exact h
  · exact winds_setBus h _ _ (by rfl)

theorem winds_removeWaiting (h : Winds s t) (u : UnitId) (p : Entry → Bool) (st : Status) :
    Winds s (removeWaiting u p st t) := by
  unfold removeWaiting
  exact winds_foldl _ (fun v e hv => winds_deliverResult_ended hv _ _ _) _ _
    (winds_setUnit h _ _ (by rfl) (fun _ => by rfl))

theorem winds_withdrawEntries (h : Winds s t) (u : UnitId) (p : Entry → Bool) (st : Status) :
    Winds s (withdrawEntries u p st t) := by
  have h1 := winds_removeWaiting h u p st
  unfold withdrawEntries withdrawOut
  split
  · exact h1
  · split
    · exact winds_completeOut_ended (winds_unqueue h1 _) _ _
    · exact h1

theorem winds_endHolderWork (h : Winds s t) (p : Entry → Bool) (u : UnitId) (c : ChanId) :
    Winds s (endHolderWork p u c t) := by
  unfold endHolderWork
  refine winds_foldl _ (fun v k hv => ?_) _ _ (winds_endJobs (winds_removeWaiting h _ _ _) _ _)
  split
  · split
    · exact winds_concludeStream hv _ _
    · exact hv
  · exact hv

/-- The first effect of a claim's leaving: its own fields. -/
theorem winds_claimLeaving (h : Winds s t) (u : UnitId) (r : ClaimReason) :
    Winds s (setUnit u { unitAt u t with claim := leavingClaim (unitAt u t).claim r, claimTimer := none } t) :=
  winds_setUnit h _ _ (by rfl) (fun e => by cases e)

/-- Everything a claim's leaving does after its own fields are set. -/
theorem winds_leaveClaim_after (p : Entry → Bool) (u : UnitId) (r : ClaimReason) (t : State)
    (hc : canLeave (unitAt u t).claim = true) :
    Winds (setUnit u { unitAt u t with claim := leavingClaim (unitAt u t).claim r, claimTimer := none } t)
      (leaveClaimSparing p u r t) := by
  have h1 := Winds.refl
    (setUnit u { unitAt u t with claim := leavingClaim (unitAt u t).claim r, claimTimer := none } t)
  unfold leaveClaimSparing
  dsimp only
  rw [if_pos hc]
  have h3 := winds_placeEntry (t := if (unitAt u t).claim.state = .entering then
      withdrawEntries u isModeEnter (leavingAnswer (some r))
        (setUnit u { unitAt u t with claim := leavingClaim (unitAt u t).claim r, claimTimer := none } t)
      else setUnit u { unitAt u t with claim := leavingClaim (unitAt u t).claim r, claimTimer := none } t)
    (by split
        · exact winds_withdrawEntries h1 _ _ _
        · exact h1) u baseEntry
  split
  · split
    · exact h3
    · exact winds_endHolderWork h3 _ _ _
  · exact h3

/-- A claim that no cause moves stays as it is (3.4). -/
theorem leaveClaimSparing_still {v} {s : State} (h : canLeave (unitAt v s).claim = false) (p : Entry → Bool)
    (r : ClaimReason) : leaveClaimSparing p v r s = s := by
  unfold leaveClaimSparing; dsimp only
  rw [if_neg (by rw [h]; exact Bool.false_ne_true)]

theorem winds_leaveClaimSparing (h : Winds s t) (p : Entry → Bool) (u : UnitId) (r : ClaimReason) :
    Winds s (leaveClaimSparing p u r t) := by
  by_cases hc : canLeave (unitAt u t).claim = true
  · exact (winds_claimLeaving h u r).trans (winds_leaveClaim_after p u r t hc)
  · rw [leaveClaimSparing_still (by simpa using hc)]
    exact h

theorem winds_leaveClaim (h : Winds s t) (u : UnitId) (r : ClaimReason) : Winds s (leaveClaim u r t) :=
  winds_leaveClaimSparing h _ u r

/-- R61: after a claim's leaving it is no longer in a state that a cause moves. -/
theorem canLeave_leaveClaimSparing (p : Entry → Bool) (u : UnitId) (r : ClaimReason) (t : State) :
    canLeave (unitAt u (leaveClaimSparing p u r t)).claim = false := by
  by_cases hc : canLeave (unitAt u t).claim = true
  · by_contra hn
    rw [Bool.not_eq_false] at hn
    have e := (winds_leaveClaim_after p u r t hc).claims u hn
    rw [unitAt_setUnit] at e
    rw [e] at hn
    cases hn
  · rw [leaveClaimSparing_still (by simpa using hc)]
    simpa using hc

theorem canLeave_leaveClaim (u : UnitId) (r : ClaimReason) (t : State) :
    canLeave (unitAt u (leaveClaim u r t)).claim = false :=
  canLeave_leaveClaimSparing _ u r t

theorem winds_endUnitWork (h : Winds s t) (u : UnitId) (r : ClaimReason) (st : Status) :
    Winds s (endUnitWork u r st t) := by
  unfold endUnitWork
  dsimp only
  have h2 := winds_foldl (s := s) (fun v e => deliverResult u e (.ended st) v)
    (fun v e hv => winds_deliverResult_ended hv u e st) ((unitAt u t).out.toList ++ (unitAt u t).wait) _
    (winds_setUnit h u { unitAt u t with out := none, wait := [], awaited := none, reasm := none } (by rfl)
      (fun _ => by rfl))
  split
  · exact h2
  · exact winds_answerRelease (winds_writeRecord (winds_freeClaim h2 _) _ _ _ _ _) _

/-! ### Channels' ends -/

theorem winds_withdrawStreamsOf (h : Winds s t) (c : ChanId) : Winds s (withdrawStreamsOf c t) := by
  refine winds_foldl _ (fun v k hv => ?_) _ _ h
  split
  · split
    · exact winds_withdrawStream hv _
    · exact hv
  · exact hv

theorem winds_leaveClaimsOf (h : Winds s t) (c : ChanId) : Winds s (leaveClaimsOf c t) := by
  refine winds_foldl _ (fun v u hv => ?_) _ _ h
  split
  · exact winds_leaveClaim hv _ _
  · exact hv

theorem winds_closeChannel (h : Winds s t) (c : ChanId) : Winds s (closeChannel c t) :=
  winds_leaveClaimsOf (winds_endJobs (winds_withdrawStreamsOf (winds_setChan h _ _ (closedChannel_closed _)) _) _ _) _

/-- R78: after a channel's close it is CLOSED, with nothing staged and no halt cause. -/
theorem closed_closeChannel (c : ChanId) (t : State) :
    (chanAt c (closeChannel c t)).state = .closed ∧ (chanAt c (closeChannel c t)).staged = none ∧
      (chanAt c (closeChannel c t)).haltCause = none ∧ (chanAt c (closeChannel c t)).clearPending = false := by
  have h0 := Winds.refl (setChan c (closedChannel (chanAt c t)) t)
  have h1 : Winds (setChan c (closedChannel (chanAt c t)) t) (closeChannel c t) :=
    winds_leaveClaimsOf (winds_endJobs (winds_withdrawStreamsOf h0 _) _ _) _
  have h2 := h1.closed c
  rw [chanAt_setChan] at h2
  have h3 := h2 rfl
  refine ⟨h3.1, h3.2.1 ?_, h3.2.2.1 rfl, h3.2.2.2 rfl⟩
  unfold closedChannel dropStaged
  split
  · rfl
  · assumption

theorem winds_closeSptChannels (h : Winds s t) : Winds s (closeSptChannels t) := by
  refine winds_foldl _ (fun v i hv => ?_) _ _ h
  split
  · exact hv
  · exact winds_closeChannel hv _

/-! ### Consequences -/

theorem winds_runConsequence (h : Winds s t) (q : Consequence) : Winds s (runConsequence q t) := by
  unfold runConsequence
  split
  · split
    · exact winds_leaveClaim h _ _
    · exact h
  · split
    · exact winds_leaveClaimSparing h _ _ _
    · exact h
  · split
    · exact winds_leaveClaim h _ _
    · exact h
  · exact winds_withdrawEntries h _ _ _
  · exact winds_withdrawEntries h _ _ _
  · exact winds_concludeStream h _ _
  · split
    · exact winds_concludeStream h _ _
    · exact h
  · exact winds_endJobs h _ _
  · exact winds_endJobs h _ _
  · exact winds_endJobs h _ _
  · split
    · exact winds_endUnitWork h _ _ _
    · exact h
  · split
    · exact winds_concludeStream h _ _
    · exact h
  · exact winds_endJobs h _ _
  · exact winds_closeSptChannels h

theorem winds_runInOrder (n : Nat) : ∀ (picks : List Nat) (left : List Consequence) {t : State}, Winds s t →
    Winds s (runInOrder n picks left t) := by
  induction n with
  | zero => intro picks left t h; exact h
  | succ n ih =>
    intro picks left t h
    unfold runInOrder
    split
    · exact h
    · exact ih _ _ (winds_runConsequence h _)

theorem winds_runAll (h : Winds s t) (picks : List Nat) (all : List Consequence) : Winds s (runAll picks all t) :=
  winds_runInOrder _ _ _ h

end Sys2Proof.Machine
end

