-- ==== Sys2Proof/Laws/Taking.lean ====
section
/-! SUPPORT. What taking a request does, said once: a message at an idle or a streaming channel is decided at once, and what
the decision writes elsewhere does not meddle with the channel's record. -/

namespace Sys2Proof.Machine

theorem running_at {f : State → State} {s u : State} (h : TakenAt s u) : running f s = .next (f u) := by
  obtain ⟨h1, rfl⟩ := h; simp [running, h1]

theorem offerReply_room {r : Reply} {ad : Bool} {u : State} (h : HasRoom (chanPort r.chan) u) : offerReply r ad u =
    pushReply r u := by
  unfold HasRoom at h; simp [offerReply, replyRoom, Config.replyDepth, h]

@[simp] theorem chanPort_svp (i : Fin 4) : chanPort (chanOf .svp i) = .svp := by revert i; decide

@[simp] theorem chanPort_rpt (i : Fin 4) : chanPort (chanOf .rpt i) = .rpt := by revert i; decide

@[simp] theorem chanPort_spt (i : Fin 4) : chanPort (chanOf .spt i) = .spt := by revert i; decide

theorem answerCommand_room {env code st pl} {u : State} (h : HasRoom .svp u) :
    answerCommand env code st pl u = pushReply (commandReply env code st pl) u := by
  unfold answerCommand; rw [offerReply_room]; rfl; simpa using h

theorem setUnit_setUnit (v : UnitId) (x y : UnitRec) (s : State) : setUnit v x (setUnit v y s) = setUnit v x s := by
  simp [setUnit]

theorem setChan_setChan (v : ChanId) (x y : Channel) (s : State) : setChan v x (setChan v y s) = setChan v x s := by
  simp [setChan]

theorem setUnit_setBus (v : UnitId) (x : UnitRec) (b : BusId) (y : Bus) (s : State) :
    setBus b y (setUnit v x s) = setUnit v x (setBus b y s) := rfl

theorem hasRoom_congr {p : Port} {a b : State} (h : HasRoom p a) (e : b.replies = a.replies) : HasRoom p b := by
  unfold HasRoom repliesAt at *; rw [e]; exact h

theorem freezeTrigger_setChan (k) (c : ChanId) (x : Channel) (s : State) : freezeTrigger k (setChan c x s) = setChan
    c x (freezeTrigger k s) := by
  unfold freezeTrigger
  dsimp only [setChan_monitor]
  cases s.monitor.freeze <;> rfl

theorem addCounts_setChan (f) (c : ChanId) (x : Channel) (s : State) : addCounts f (setChan c x s) = setChan c x
    (addCounts f s) := by
  unfold addCounts
  dsimp only
  by_cases h : ((List.finRange 8).any fun i => wraps s.monitor i (f i) && !s.monitor.flags.get i &&
      (s.monitor.setups.get i).escalate) = true
  · rw [if_pos h, if_pos (by exact h)]
    exact freezeTrigger_setChan (.counter (packBits 8 fun i => wraps s.monitor i (f i) && !s.monitor.flags.get i)) c
        x { s with monitor := { s.monitor with
      counters := Vector.ofFn fun i => s.monitor.counters.get i + BitVec.ofNat 32 (f i)
      flags := Vector.ofFn fun i => s.monitor.flags.get i || wraps s.monitor i (f i) } }
  · rw [if_neg h, if_neg (by exact h)]; rfl

theorem report_setChan (r) (c : ChanId) (x : Channel) (s : State) : report r (setChan c x s) = setChan c x
    (report r s) := by
  unfold report
  by_cases h : countingStopped s.monitor = true
  · rw [if_pos h, if_pos (by exact h)]
  · rw [if_neg h, if_neg (by exact h)]
    exact addCounts_setChan _ c x s

theorem writeRecord_setChan (a b g v d) (c : ChanId) (x : Channel) (s : State) : writeRecord a b g v d
    (setChan c x s) = setChan c x (writeRecord a b g v d s) := rfl

theorem escalateGrant_setChan (g) (c : ChanId) (x : Channel) (s : State) : escalateGrant g (setChan c x s) = setChan
    c x (escalateGrant g s) := by
  unfold escalateGrant
  dsimp only
  by_cases h : s.monitor.escalated.getLsbD g.val = true
  · rw [if_pos h, if_pos (by exact h)]
  · rw [if_neg h, if_neg (by exact h)]
    by_cases h2 : s.monitor.freezeOnGrant = true
    · rw [if_pos h2, if_pos (by exact h2)]
      exact freezeTrigger_setChan (.grant g) c x { s with monitor :=
          { s.monitor with escalated := s.monitor.escalated ||| BitVec.twoPow 32 g.val } }
    · rw [if_neg h2, if_neg (by exact h2)]; rfl

theorem charge_setChan (g n) (c : ChanId) (x : Channel) (s : State) : charge g n (setChan c x s) = setChan c x
    (charge g n s) := by
  unfold charge
  dsimp only
  by_cases h1 : (grantAt g s).allowance = 0 ∨ n = 0
  · rw [if_pos h1, if_pos (by exact h1)]
  · rw [if_neg h1, if_neg (by exact h1)]
    by_cases h2 : (grantAt g s).counter.toNat + n < counterLimit
    · rw [if_pos h2, if_pos (by exact h2)]; rfl
    · rw [if_neg h2, if_neg (by exact h2)]
      by_cases h3 : (grantAt g s).escalate = true
      · rw [if_pos h3, if_pos (by exact h3)]
        exact escalateGrant_setChan g c x (setGrant g { grantAt g s with counter := 0, state := .spent } s)
      · rw [if_neg h3, if_neg (by exact h3)]; rfl

theorem noteAdmission_setChan (d r g n) (c : ChanId) (x : Channel) (s : State) : noteAdmission d r g n
    (setChan c x s) = setChan c x (noteAdmission d r g n s) := by
  unfold noteAdmission admissionReport
  have e1 : chargeSelected g n (setChan c x s) = setChan c x (chargeSelected g n s) := by
    unfold chargeSelected; split
    · exact charge_setChan _ _ _ _ _
    · rfl
  have e2 : recordAdmitted d r g (setChan c x (chargeSelected g n s)) = setChan c x
      (recordAdmitted d r g (chargeSelected g n s)) := by
    unfold recordAdmitted; split <;> rfl
  rw [e1, e2, report_setChan]
  rfl

theorem noteRefusal_setChan (d b st) (c : ChanId) (x : Channel) (s : State) : noteRefusal d b st (setChan c x s) =
    setChan c x (noteRefusal d b st s) := by
  unfold noteRefusal admissionReport
  dsimp only
  split <;> split <;> simp only [report_setChan, writeChanRecord, writeRecord_setChan] <;> rfl

theorem check_setChan (d b) (c : ChanId) (x : Channel) (s : State) : check d b (setChan c x s) = check d b s := rfl

theorem kindOf_body (k : ReqKind) (m : ReqMsg) : kindOf (bodyKind (rowBody k m)) = some k := by
  show kindOf (kindCode k) = some k
  cases k <;> decide

theorem arrive_idle {k : ReqKind} {m : ReqMsg} {u : State} (h : AtIdle m u)
    (hk : k ∉ [.channelOpen, .channelClose, .block, .streamEnd, .streamAbort]) :
   arrive k m u = decideTaken m.chan m.buf (rowBody k m)
       (setChan m.chan (takeMessage m.buf (rowBody k m) (chanAt m.chan u)) u) := by
  unfold arrive deliver
  rw [kindOf_body]
  have e : deliverOther m.chan m.buf (rowBody k m) u = decideTaken m.chan m.buf (rowBody k m)
      (setChan m.chan (takeMessage m.buf (rowBody k m) (chanAt m.chan u)) u) := by
    unfold deliverOther
    rw [h.state]
    dsimp only
    unfold deliverWorking
    simp only [h.expect, ne_eq, not_true, if_false, h.free]
    unfold takeByState
    rw [kindOf_body]
    dsimp only
    rw [h.state]
    have : needsStream (some k) = false := by cases k <;> simp at hk <;> rfl
    simp only [this]
    rfl
  cases k <;> simp at hk <;> exact e

theorem arrive_stream {k : ReqKind} {m : ReqMsg} {i : CtxId} {u : State} (h : AtStream m i u)
    (hk : k ∈ [.block, .keep] ∨ (k ∈ [.streamEnd, .streamAbort] ∧ (chanAt m.chan u).active = none)) :
   arrive k m u = decideTaken m.chan m.buf (rowBody k m)
       (setChan m.chan (takeMessage m.buf (rowBody k m) (chanAt m.chan u)) u) := by
  unfold arrive deliver
  rw [kindOf_body]
  have e : deliverOther m.chan m.buf (rowBody k m) u = decideTaken m.chan m.buf (rowBody k m)
      (setChan m.chan (takeMessage m.buf (rowBody k m) (chanAt m.chan u)) u) := by
    unfold deliverOther
    rw [h.state]
    dsimp only
    unfold deliverWorking
    simp only [h.expect, ne_eq, not_true, if_false, h.free]
    unfold takeByState
    rw [kindOf_body]
    dsimp only
    rw [h.state]
    have : streamingTakes (chanAt m.chan u).active.isSome (some k) = true := by
      rcases hk with hk | ⟨hk, ha⟩
      · cases k <;> simp at hk <;> rfl
      · rw [ha]; cases k <;> simp at hk <;> rfl
    simp only [this]
    rfl
  cases k <;> simp at hk <;> exact e

theorem freeBuffer_take (b : Buf) (x : List Byte) (ch : Channel) (h : bufferAt b ch = none) : freeBuffer b
    (takeMessage b x ch) = { ch with expect := otherBuf b } := by
  cases b <;> simp [freeBuffer, takeMessage, setBuffer, bufferAt, otherBuf] at * <;> cases ch <;> simp_all

theorem settle_idle (ch : Channel) (h1 : ch.state = .idle) (h2 : ch.active = none) (h3 : ch.staged = none)
    (h4 : ch.binding = none) : settleChan ch = ch := by
  unfold settleChan stateOfWork isWorking
  cases ch; simp_all

theorem settle_stream (ch : Channel) (h1 : ch.state = .streaming) (k) (h4 : ch.binding = some k) : settleChan ch =
    ch := by
  unfold settleChan stateOfWork isWorking
  cases ch; simp_all

theorem exec_row (k : ReqKind) (m : ReqMsg) (s : State) : exec (requestRow k m) s = running (arrive k m) s := by
    cases k <;> rfl

theorem noteRefusal_replies (c b st) (u : State) : (noteRefusal c b st u).replies = u.replies := by
  unfold noteRefusal admissionReport
  dsimp only
  split <;> split <;> simp [writeChanRecord]

theorem noteRefusal_chans (c b st) (u : State) : (noteRefusal c b st u).chans = u.chans := by
  unfold noteRefusal admissionReport
  dsimp only
  split <;> split <;> simp [writeChanRecord]

theorem answerTaken_room (c : ChanId) (b : Buf) (k : ReqKind) (st cl pl ad) (x : Channel) (w : State)
    (h : HasRoom (chanPort c) w) :
   answerTaken c b (kindCode k) st cl pl ad (setChan c x w) = setChan c (settleChan (freeBuffer b x))
       (pushReply (requestReply c b k st cl pl) w) := by
  unfold answerTaken
  rw [offerReply_room (show HasRoom _ (setChan c x w) from h)]
  have : chanAt c (pushReply { chan := c, buf := b, kind := kindCode k, status := st, clamped := cl, payload := pl }
      (setChan c x w)) = x := by
    simp [pushReply, chanAt, setReplies, setChan]
    exact Vector.getElem_set_self ..
  dsimp only
  rw [this]
  show setChan c _ (setChan c x (pushReply (requestReply c b k st cl pl) w)) = _
  rw [setChan_setChan]

theorem answered_idle {m : ReqMsg} {u : State} (h : AtIdle m u) (k : ReqKind) : settleChan
    (freeBuffer m.buf (takeMessage m.buf (rowBody k m) (chanAt m.chan u))) = answeredChannel m u := by
  rw [freeBuffer_take _ _ _ h.free]; exact settle_idle (answeredChannel m u) h.state h.active h.staged h.binding

theorem answered_stream {m : ReqMsg} {u : State} {i} (h : AtStream m i u) (k : ReqKind) : settleChan
    (freeBuffer m.buf (takeMessage m.buf (rowBody k m) (chanAt m.chan u))) = answeredChannel m u := by
  rw [freeBuffer_take _ _ _ h.free]; exact settle_stream (answeredChannel m u) h.state _ h.binding

theorem check_of_stages {c r g} {body : List Byte} {u : State} (hp : parseRequest body = some r)
    (h1 : refusalOf c r u = none) (h2 : selectGrant c r u = g) : check c body u = .admitted r g (planOf r u) := by
  unfold check; rw [hp]; dsimp only; rw [h1]; dsimp only; rw [h2]

theorem restartForHolder_eq (c v) (u : State) : restartForHolder c v u = heldTimerRestarted c v u := by
  unfold restartForHolder restartClaimTimer heldTimerRestarted holdsClaim
  dsimp only
  by_cases h : (unitAt v u).claim.holder = some c <;> cases hs : (unitAt v u).claim.state <;> simp [h]

theorem decide_admitted {k : ReqKind} {m : ReqMsg} {r : Request} {g} {u : State} {p : Plan} (hr : r.kind = k)
    (hc : check m.chan (rowBody k m) u = .admitted r g p) :
   decideTaken m.chan m.buf (rowBody k m) (setChan m.chan (takeMessage m.buf (rowBody k m) (chanAt m.chan u)) u) =
    (let h := handOff m.chan r g p
        (setChan m.chan (takeMessage m.buf (rowBody k m) (chanAt m.chan u)) (noteAdmission m.chan r g p.cost u))
     finishHandOff m.chan m.buf k h.2 h.1) := by
  unfold decideTaken
  rw [check_setChan, hc]
  dsimp only
  rw [noteAdmission_setChan, hr]

theorem enterQueue_setChan (v e) (c : ChanId) (x : Channel) (s : State) : enterQueue v e (setChan c x s) = setChan c
    x (enterQueue v e s) := by
  unfold enterQueue
  simp only [unitAt_setChan]
  cases (unitAt v s).defn <;> rfl

theorem placeEntry_setChan (v e) (c : ChanId) (x : Channel) (s : State) : placeEntry v e (setChan c x s) = setChan c
    x (placeEntry v e s) := by
  unfold placeEntry makeOutstanding
  dsimp only
  by_cases h : ((unitAt v s).out.isNone && (unitAt v s).wait.isEmpty) = true
  · rw [if_pos h, if_pos (by exact h)]
    exact enterQueue_setChan v e c x (setUnit v { unitAt v s with out := some e } s)
  · rw [if_neg h, if_neg (by exact h)]; rfl

theorem heldTimer_setChan (d v) (c : ChanId) (x : Channel) (s : State) : heldTimerRestarted d v (setChan c x s) =
    setChan c x (heldTimerRestarted d v s) := by
  unfold heldTimerRestarted
  dsimp only
  by_cases h : (unitAt v s).claim.holder = some d ∧ ((unitAt v s).claim.state = .attended ∨ (unitAt v s).claim.state
      = .flash)
  · rw [if_pos h, if_pos (by exact h)]; rfl
  · rw [if_neg h, if_neg (by exact h)]

theorem finishHandOff_pends (c b k place cl) (x : Channel) (w : State) : finishHandOff c b k (.pends place cl)
    (setChan c x w) =
   setChan c (settleChan { x with active := some { buf := b, kind := k, clamped := cl, place := place } }) w := by
  unfold finishHandOff
  simp only [chanAt_setChan, setChan_setChan]

theorem pending_idle {m : ReqMsg} {u : State} (h : AtIdle m u) (k cl place) :
  settleChan { takeMessage m.buf (rowBody k m) (chanAt m.chan u) with
      active := some { buf := m.buf, kind := k, clamped := cl, place := place } } = pendingChannel k m cl place .busy u := by
  have h1 := h.state; have h2 := h.binding
  unfold settleChan stateOfWork isWorking takeMessage pendingChannel
  cases m.buf <;> simp [setBuffer, h1, h2]

theorem pending_stream {m : ReqMsg} {u : State} {i} (h : AtStream m i u) (k cl place) :
  settleChan { takeMessage m.buf (rowBody k m) (chanAt m.chan u) with
      active := some { buf := m.buf, kind := k, clamped := cl, place := place } } = pendingChannel k m cl place .streaming u := by
  have h1 := h.state; have h2 := h.binding
  unfold settleChan stateOfWork isWorking takeMessage pendingChannel
  cases m.buf <;> simp [setBuffer, h1, h2]

theorem charge_units (g n) (u : State) : (charge g n u).units = u.units := by
  unfold charge; dsimp only; repeat' split
  all_goals simp

theorem charge_frame (g n) (u : State) : ∃ gr mo tr, charge g n u =
    { u with grants := gr, monitor := mo, trail := tr } := by
  unfold charge escalateGrant freezeTrigger writeRecord; dsimp only; repeat' split
  all_goals exact ⟨_, _, _, rfl⟩

theorem noteAdmission_frame (c r g n) (u : State) : ∃ gr mo tr, noteAdmission c r g n u =
    { u with grants := gr, monitor := mo, trail := tr } := by
  have h1 : ∃ gr mo tr, chargeSelected g n u = { u with grants := gr, monitor := mo, trail := tr } := by
    unfold chargeSelected; split
    · exact charge_frame ..
    · exact ⟨_, _, _, rfl⟩
  obtain ⟨gr, mo, tr, h1⟩ := h1
  have h2 : ∃ gr mo tr, recordAdmitted c r g (chargeSelected g n u) =
      { u with grants := gr, monitor := mo, trail := tr } := by
    rw [h1]; unfold recordAdmitted; split <;> exact ⟨_, _, _, rfl⟩
  obtain ⟨gr, mo, tr, h2⟩ := h2
  unfold noteAdmission admissionReport
  rw [h2]
  unfold report addCounts freezeTrigger writeRecord; dsimp only; repeat' split
  all_goals exact ⟨_, _, _, rfl⟩

theorem noteAdmission_units (c r g n) (u : State) : (noteAdmission c r g n u).units = u.units := by
  obtain ⟨_, _, _, h⟩ := noteAdmission_frame c r g n u; rw [h]

theorem noteAdmission_replies (c r g n) (u : State) : (noteAdmission c r g n u).replies = u.replies := by
  obtain ⟨_, _, _, h⟩ := noteAdmission_frame c r g n u; rw [h]

/-- A request row taken at an idle channel, where admission admits it, is its hand-off. -/
theorem exec_request_idle {m : ReqMsg} {r : Request} {g} {s u : State} (ht : TakenAt s u) (hi : AtIdle m u)
    (hs : Spells m r) (h1 : refusalOf m.chan r u = none) (h2 : selectGrant m.chan r u = g)
   (hk : r.kind ∉ [.channelOpen, .channelClose, .block, .streamEnd, .streamAbort]) :
   exec (requestRow r.kind m) s = .next (
      let h := handOff m.chan r g (planOf r u)
        (setChan m.chan (takeMessage m.buf (rowBody r.kind m) (chanAt m.chan u))
          (noteAdmission m.chan r g (planOf r u).cost u))
      finishHandOff m.chan m.buf r.kind h.2 h.1) := by
  rw [exec_row, running_at ht, arrive_idle hi hk, decide_admitted rfl (check_of_stages hs h1 h2)]

end Sys2Proof.Machine
end

