-- ==== Sys2Proof/Laws/Arguments.lean ====
section
/-! SUPPORT. The argument bytes of commands and requests, read back: each code and index a byte names, the rights of a
grant, the windows and maps of UNIT DEFINE. -/

namespace Sys2Proof.Machine

theorem answerCommand_eq_offerReply (env code st pl) (u : State) : answerCommand env code st pl u = offerReply
    (commandReply env code st pl) false u := rfl

theorem yes_iff (b : Byte) : yes b = true ↔ b ≠ 0 := by simp [yes]

theorem slotOf_eq (b : Byte) (g : Slot) (h : b.toNat = g.val) : slotOf b = some g := by
  unfold slotOf; rw [dif_pos (by omega)]; congr 1; exact Fin.ext h

theorem slotOf_none (b : Byte) (h : 32 ≤ b.toNat) : slotOf b = none := by
  unfold slotOf; rw [dif_neg (by omega)]

theorem setGrant_self (g : Slot) (s : State) : setGrant g (grantAt g s) s = s := by
  simp [setGrant, grantAt, Vector.get]

theorem leBytes_length (n v : Nat) : (leBytes n v).length = n := by
  induction n generalizing v <;> simp_all [leBytes]

theorem allSlots_eq : allSlots = List.finRange 32 := rfl

theorem index4_eq (b : Byte) (i : Fin 4) (h : b.toNat = i.val) : index4 b = some i := by
  unfold index4; rw [dif_pos (by omega)]; congr 1; exact Fin.ext h

theorem index4_none (b : Byte) (h : 4 ≤ b.toNat) : index4 b = none := by
  unfold index4; rw [dif_neg (by omega)]

theorem counterOf_eq (b : Byte) (i : Fin 8) (h : b.toNat = i.val) : counterOf b = some i := by
  unfold counterOf; rw [dif_pos (by omega)]; congr 1; exact Fin.ext h

theorem counterOf_none (b : Byte) (h : 8 ≤ b.toNat) : counterOf b = none := by
  unfold counterOf; rw [dif_neg (by omega)]

theorem eventOf_some : ∀ b : Byte, (1 ≤ b.toNat ∧ b.toNat ≤ 0x14 ∧ ¬ (0x0E ≤ b.toNat ∧ b.toNat ≤ 0x10)) → ∃ e,
    eventOf b = some e ∧ eventCode e = b := by
  have : ∀ n : Fin 256, (1 ≤ n.val ∧ n.val ≤ 0x14 ∧ ¬ (0x0E ≤ n.val ∧ n.val ≤ 0x10)) →
      (match eventOf (BitVec.ofFin n) with | some e => eventCode e == BitVec.ofFin n | none => false) = true := by
      decide +kernel
  intro b hb
  have := this b.toFin hb
  change (match eventOf b with | some e => eventCode e == b | none => false) = true at this
  cases h : eventOf b with
  | none => rw [h] at this; cases this
  | some e => rw [h] at this; exact ⟨e, rfl, by simpa using this⟩

theorem eventOf_none : ∀ b : Byte, ¬ (1 ≤ b.toNat ∧ b.toNat ≤ 0x14 ∧ ¬ (0x0E ≤ b.toNat ∧ b.toNat ≤ 0x10)) → eventOf
    b = none := by
  have : ∀ n : Fin 256, ¬ (1 ≤ n.val ∧ n.val ≤ 0x14 ∧ ¬ (0x0E ≤ n.val ∧ n.val ≤ 0x10)) → eventOf (BitVec.ofFin n) =
      none := by decide +kernel
  intro b hb
  exact this b.toFin hb

theorem busFilterOf_some (b : Byte) (h : b.toNat ≤ 2) : busFilterOf b = some
    (if b = 0 then .ub0 else if b = 1 then .ub1 else .both) := by
  unfold busFilterOf
  by_cases h0 : b = 0
  · simp [h0]
  by_cases h1 : b = 1
  · simp [h1]
  have h2 : b = 2 := by
    apply BitVec.eq_of_toNat_eq
    have a0 : b.toNat ≠ 0 := fun e => h0 (BitVec.eq_of_toNat_eq e)
    have a1 : b.toNat ≠ 1 := fun e => h1 (BitVec.eq_of_toNat_eq e)
    show b.toNat = 2; omega
  rw [if_neg h0, if_neg h1, if_pos h2, if_neg h0, if_neg h1]

theorem busFilterOf_none (b : Byte) (h : ¬ b.toNat ≤ 2) : busFilterOf b = none := by
  unfold busFilterOf
  rw [if_neg, if_neg, if_neg] <;> rintro rfl <;> simp at h

theorem packBits_lsb (f : Fin 8 → Bool) (i : Fin 8) : (packBits 8 f).getLsbD i.val = f i := by
  have key : ∀ (l : List (Fin 8)) (acc : BitVec 8), ((l.foldl
      (fun acc i => if f i then acc ||| BitVec.twoPow 8 i.val else acc) acc).getLsbD i.val) =
      (acc.getLsbD i.val || (decide (i ∈ l) && f i)) := by
    intro l
    induction l with
    | nil => simp
    | cons j l ih =>
      intro acc
      rw [List.foldl_cons, ih]
      by_cases hij : i = j
      · subst hij
        cases hf : f i <;> simp [i.isLt]
      · have : ¬ (i.val = j.val) := fun h => hij (Fin.ext h)
        cases hf : f j <;> simp [hij, BitVec.getLsbD_twoPow, Ne.symm this, eq_comm, this]
  unfold packBits
  rw [key]; simp

theorem byte_eq (b : Byte) (n : Nat) (hn : n < 256) : b = BitVec.ofNat 8 n ↔ b.toNat = n := by
  rw [← BitVec.toNat_inj, BitVec.toNat_ofNat, Nat.mod_eq_of_lt hn]

theorem portOf_some (b : Byte) (h : 1 ≤ b.toNat ∧ b.toNat ≤ 3) : portOf b = some
    (if b = 1 then .spt else if b = 2 then .rpt else .svp) := by
  unfold portOf
  by_cases h1 : b = 1
  · rw [if_pos h1, if_pos h1]
  by_cases h2 : b = 2
  · rw [if_neg h1, if_neg h1, if_pos h2, if_pos h2]
  have h3 : b = 3 := by
    have h1 : ¬ b.toNat = 1 := fun e => h1 (BitVec.eq_of_toNat_eq e)
    have h2 : ¬ b.toNat = 2 := fun e => h2 (BitVec.eq_of_toNat_eq e)
    apply BitVec.eq_of_toNat_eq; show b.toNat = 3; omega
  rw [if_neg h1, if_neg h1, if_neg h2, if_neg h2, if_pos h3]

theorem portOf_none (b : Byte) (h : ¬ (1 ≤ b.toNat ∧ b.toNat ≤ 3)) : portOf b = none := by
  unfold portOf
  rw [if_neg, if_neg, if_neg] <;> rintro rfl <;> simp at h

theorem rightOf_some (n : Nat) (h : n < 4) (h3 : n ≠ 3) : rightOf n = some
    (if n = 0 then .none else if n = 1 then .read else .readWrite) := by
  have : n = 0 ∨ n = 1 ∨ n = 2 := by omega
  rcases this with rfl | rfl | rfl <;> rfl

theorem rightOf_three : rightOf 3 = none := rfl

theorem rightsOf_good (b : Byte) (h : ∀ i, i < 4 → b.toNat / 4 ^ i % 4 ≠ 3) : ∃ v, rightsOf b = some v ∧ ∀ i : Fin
    4, v.get i =
   if b.toNat / 4 ^ i.val % 4 = 0 then .none else if b.toNat / 4 ^ i.val % 4 = 1 then .read else .readWrite := by
  have h0 := h 0 (by omega); have h1 := h 1 (by omega); have h2 := h 2 (by omega); have h3 := h 3 (by omega)
  have hl := b.isLt
  simp at h0 h1 h2 h3
  have e3 : b.toNat / 64 = b.toNat / 64 % 4 := by omega
  unfold rightsOf
  rw [e3, rightOf_some _ (by omega) h0, rightOf_some _ (by omega) h1, rightOf_some _ (by omega) h2, rightOf_some _
      (by omega) h3]
  refine ⟨_, rfl, ?_⟩
  intro i
  match i with
  | 0 => simp [Vector.get]
  | 1 => simp [Vector.get]
  | 2 => simp [Vector.get]
  | 3 => simp [Vector.get]

theorem rightsOf_bad (b : Byte) (h : ¬ ∀ i, i < 4 → b.toNat / 4 ^ i % 4 ≠ 3) : rightsOf b = none := by
  simp only [not_forall, ne_eq, not_not] at h
  obtain ⟨i, hi, h⟩ := h
  have hl := b.isLt
  unfold rightsOf
  have : i = 0 ∨ i = 1 ∨ i = 2 ∨ i = 3 := by omega
  rcases this with rfl | rfl | rfl | rfl
  · simp at h; rw [h, rightOf_three]
  · simp at h; rw [h, rightOf_three]; cases rightOf (b.toNat % 4) <;> rfl
  · simp at h; rw [h, rightOf_three]; cases rightOf (b.toNat % 4) <;> [skip; cases rightOf (b.toNat / 4 % 4)] <;>
        rfl
  · have e3 : b.toNat / 64 = b.toNat / 64 % 4 := by omega
    have h : b.toNat / 64 % 4 = 3 := h
    rw [e3, h, rightOf_three]
    split
    · rename_i h9; cases h9
    · rfl

theorem unitOf_eq (b : Byte) (v : UnitId) (h : b.toNat = v.val) : unitOf b = some v := by
  unfold unitOf; rw [dif_pos (by omega)]; congr 1; exact Fin.ext h

theorem unitOf_none (b : Byte) (h : 16 ≤ b.toNat) : unitOf b = none := by
  unfold unitOf; rw [dif_neg (by omega)]

theorem busOf_eq (b : Byte) (x : BusId) (h : b.toNat = if x = .ub0 then 0 else 1) : busOf b = some x := by
  cases x
  · obtain rfl : b = 0 := BitVec.eq_of_toNat_eq h
    rfl
  · obtain rfl : b = 1 := BitVec.eq_of_toNat_eq h
    rfl

theorem busOf_none (b : Byte) (h : 2 ≤ b.toNat) : busOf b = none := by
  unfold busOf; rw [if_neg, if_neg] <;> rintro rfl <;> simp at h

theorem byte_le_one (b : Byte) (h : b.toNat ≤ 1) : b = 0 ∨ b = 1 := by
  have : b.toNat = 0 ∨ b.toNat = 1 := by omega
  rcases this with e | e
  · left; exact BitVec.eq_of_toNat_eq e
  · right; exact BitVec.eq_of_toNat_eq e

theorem index4_some (b : Byte) (i : Fin 4) (h : index4 b = some i) : b.toNat = i.val := by
  unfold index4 at h; split at h <;> cases h; rfl

theorem toNat_beq (b : Byte) (n : Nat) (hn : n < 256) : (b.toNat == n) = decide (b = BitVec.ofNat 8 n) := by
  rw [Bool.eq_iff_iff]; simp only [beq_iff_eq, decide_eq_true_eq]
  rw [← BitVec.toNat_inj, BitVec.toNat_ofNat, Nat.mod_eq_of_lt hn]

theorem unitHasWork_iff (v : UnitId) (u : State) : unitHasWork v u = true ↔
    ((unitAt v u).claim.state ≠ .free ∨ (unitAt v u).out ≠ none ∨ (unitAt v u).wait ≠ [] ∨
    (∃ j ∈ jobsOf u.map, j.unit = v) ∨
      ∃ k x, streamAt k u = some x ∧ x.unit = v) := by
  unfold unitHasWork streamHas allCtxs
  simp only [Bool.or_eq_true, bne_iff_ne, List.any_eq_true, beq_iff_eq, Bool.not_eq_true',
      List.isEmpty_eq_false_iff, Option.isSome_iff_ne_none, or_assoc]
  have : (∃ k ∈ List.finRange 4, (match streamAt k u with | some x => x.unit == v | none => false) = true) ↔ ∃ k x,
      streamAt k u = some x ∧ x.unit = v := by
    constructor
    · rintro ⟨k, -, hk⟩
      cases h : streamAt k u with
      | none => rw [h] at hk; cases hk
      | some x => rw [h] at hk; exact ⟨k, x, h, by simpa using hk⟩
    · rintro ⟨k, x, hk, hx⟩
      exact ⟨k, by simp, by rw [hk]; simpa using hx⟩
  exact or_congr Iff.rfl (or_congr Iff.rfl (or_congr Iff.rfl (or_congr Iff.rfl this)))

theorem onBus_iff (b : BusId) (w) (u : State) : onBus b (unitAt w u) = true ↔ unitBus w u = some b := by
  unfold onBus unitBus; cases (unitAt w u).defn <;> simp

theorem windowOf_isSome_iff (a : WindowArgs) : (windowOf a).isSome = true ↔
    (1 ≤ a.length.toNat ∧ a.length.toNat ≤ 256 ∧ a.granularity.toNat ≤ 1) := by
  unfold windowOf; split <;> simp_all

theorem windowsOf_get (a : UnitArgs) (i) : (windowsOf a).get i = if a.windowsPresent.getLsbD i.val then windowOf
    (a.windows.get i) else none := by
  unfold windowsOf; exact vector_get_ofFn _ _

theorem mapsOf_get (a : UnitArgs) (i) : (mapsOf a).get i = if a.mapsPresent.getLsbD i.val then mapOf (a.maps.get i)
    (windowsOf a) else none := by
  unfold mapsOf; exact vector_get_ofFn _ _

theorem windowSize_eq (a : WindowArgs) (w) (h : windowOf a = some w) : windowSize w = a.length.toNat * if
    a.granularity = 0 then 256 else 4096 := by
  unfold windowOf at h; split at h <;> cases h
  unfold windowSize; dsimp only
  split <;> rfl

theorem mapFits_iff (m : MapArgs) (n : Nat) : mapFits m n = true ↔
    ((m.cell = 1 ∨ m.cell = 2 ∨ m.cell = 4) ∧ 1 ≤ m.columns.toNat ∧ m.columns.toNat ≤ 64 ∧
        1 ≤ m.rows.toNat ∧ m.rows.toNat ≤ 64 ∧ m.columns.toNat * m.cell.toNat ≤ m.pitch.toNat ∧ m.pitch.toNat ≤ 4096
            ∧
        m.offset.toNat % m.cell.toNat = 0 ∧ m.pitch.toNat % m.cell.toNat = 0 ∧
        m.offset.toNat + (m.rows.toNat - 1) * m.pitch.toNat + m.columns.toNat * m.cell.toNat ≤ n) := by
  unfold mapFits
  dsimp only
  rw [toNat_beq _ 1 (by omega), toNat_beq _ 2 (by omega), toNat_beq _ 4 (by omega)]
  simp only [Bool.and_eq_true, Bool.or_eq_true, decide_eq_true_eq, beq_iff_eq, and_assoc, or_assoc]
  rfl

/-- Every present window of UNIT DEFINE is well formed (R48). -/
def WindowsGood (a : UnitArgs) : Prop := ∀ i : Fin 4, a.windowsPresent.getLsbD i.val = true → 1 ≤
    (a.windows.get i).length.toNat ∧ (a.windows.get i).length.toNat ≤ 256 ∧ (a.windows.get i).granularity.toNat ≤ 1

/-- Map `j` of UNIT DEFINE is well formed in its window (R47, R48). -/
def MapGood (a : UnitArgs) (j : Fin 4) : Prop :=
   let m := a.maps.get j
      ∃ i : Fin 4, m.window.toNat = i.val ∧ a.windowsPresent.getLsbD i.val = true ∧
        (m.cell = 1 ∨ m.cell = 2 ∨ m.cell = 4) ∧ 1 ≤ m.columns.toNat ∧ m.columns.toNat ≤ 64 ∧
        1 ≤ m.rows.toNat ∧ m.rows.toNat ≤ 64 ∧ m.columns.toNat * m.cell.toNat ≤ m.pitch.toNat ∧ m.pitch.toNat ≤ 4096
            ∧
        m.offset.toNat % m.cell.toNat = 0 ∧ m.pitch.toNat % m.cell.toNat = 0 ∧
        m.offset.toNat + (m.rows.toNat - 1) * m.pitch.toNat + m.columns.toNat * m.cell.toNat ≤
            (a.windows.get i).length.toNat * if (a.windows.get i).granularity = 0 then 256 else 4096

theorem mapOf_of_good (a : UnitArgs) (j) (hw : WindowsGood a) (hm : MapGood a j) : ∃ d, mapOf (a.maps.get j)
    (windowsOf a) = some d ∧ d.window.val = (a.maps.get j).window.toNat ∧
     d.offset = (a.maps.get j).offset.toNat ∧ d.cell = (a.maps.get j).cell.toNat ∧
        d.columns = (a.maps.get j).columns.toNat ∧ d.rows = (a.maps.get j).rows.toNat ∧
        d.pitch = (a.maps.get j).pitch.toNat := by
  obtain ⟨i, h1, h2, h3⟩ := hm
  obtain ⟨w, hw'⟩ := Option.isSome_iff_exists.mp ((windowOf_isSome_iff _).mpr (hw i h2))
  unfold mapOf
  rw [index4_eq _ i h1]; dsimp only
  rw [windowsOf_get, if_pos h2, hw']; dsimp only
  rw [if_pos]
  · exact ⟨_, rfl, h1.symm, rfl, rfl, rfl, rfl, rfl⟩
  · rw [windowSize_eq _ _ hw']; exact (mapFits_iff _ _).mpr h3

theorem mapGood_of_mapOf (a : UnitArgs) (j) (h : (mapOf (a.maps.get j) (windowsOf a)).isSome = true) : MapGood a j
    := by
  unfold mapOf at h
  split at h
  · cases h
  · rename_i i hi
    split at h
    · cases h
    · rename_i w hw
      split at h
      · rename_i hf
        rw [windowsOf_get] at hw
        split at hw
        · rename_i hp
          refine ⟨i, index4_some _ _ hi, hp, ?_⟩
          rw [windowSize_eq _ _ hw] at hf
          exact (mapFits_iff _ _).mp hf
        · cases hw
      · cases h

theorem partsOk_iff (a : UnitArgs) : partsOk a = true ↔ WindowsGood a ∧ ∀ j : Fin 4, a.mapsPresent.getLsbD j.val =
    true → MapGood a j := by
  unfold partsOk
  simp only [Bool.and_eq_true, List.all_eq_true, Bool.or_eq_true, Bool.not_eq_true']
  constructor
  · rintro ⟨h1, h2⟩
    have hw : WindowsGood a := by
      intro i hi
      rcases h1 i (by simp) with h | h
      · rw [hi] at h; cases h
      · rw [windowsOf_get, if_pos hi] at h; exact (windowOf_isSome_iff _).mp h
    refine ⟨hw, fun j hj => ?_⟩
    rcases h2 j (by simp) with h | h
    · rw [hj] at h; cases h
    · rw [mapsOf_get, if_pos hj] at h; exact mapGood_of_mapOf a j h
  · rintro ⟨hw, hm⟩
    refine ⟨fun i _ => ?_, fun j _ => ?_⟩
    · cases hi : a.windowsPresent.getLsbD i.val with
      | false => left; rfl
      | true => right; rw [windowsOf_get, if_pos hi]; exact (windowOf_isSome_iff _).mpr (hw i hi)
    · cases hj : a.mapsPresent.getLsbD j.val with
      | false => left; rfl
      | true => right; rw [mapsOf_get, if_pos hj]; obtain ⟨d, hd, -⟩ := mapOf_of_good a j hw (hm j hj); rw [hd]; rfl

theorem toNat_ofNat_byte (n : Nat) : (BitVec.ofNat 8 n : Byte).toNat = n % 256 := by simp

theorem leNat_leBytes_two (v : Nat) (h : v < 65536) (a b) (e : leBytes 2 v = [a, b]) : leNat [a, b] = v := by
  simp only [leBytes, List.cons.injEq, and_true] at e
  obtain ⟨rfl, rfl⟩ := e
  simp [leNat]; omega

theorem leNat_leBytes_four (v : Nat) (h : v < 4294967296) (a b c d) (e : leBytes 4 v = [a, b, c, d]) : leNat
    [a, b, c, d] = v := by
  simp only [leBytes, List.cons.injEq, and_true] at e
  obtain ⟨rfl, rfl, rfl, rfl⟩ := e
  simp [leNat]; omega

theorem leBytes_two (v : Nat) : ∃ a b, leBytes 2 v = [a, b] := ⟨_, _, rfl⟩

theorem leBytes_four (v : Nat) : ∃ a b c d, leBytes 4 v = [a, b, c, d] := ⟨_, _, _, _, rfl⟩

theorem unitOf_byte (v : UnitId) : unitOf (byte v.val) = some v := by
  unfold unitOf byte; have := v.isLt; rw [dif_pos (by simp; omega)]; congr 1; apply Fin.ext; simp; omega

theorem index4_byte (v : Fin 4) : index4 (byte v.val) = some v := by
  unfold index4 byte; have := v.isLt; rw [dif_pos (by simp; omega)]; congr 1; apply Fin.ext; simp; omega

theorem toNat_byte (n : Nat) (h : n < 256) : (byte n).toNat = n := by unfold byte; simp; omega

theorem kindOf_kindCode (k) : kindOf (kindCode k) = some k := by cases k <;> decide

theorem modeOf_modeCode (m) : modeOf (modeCode m) = some m := by cases m <;> decide

theorem policyOf_policyCode (m) : policyOf (policyCode m) = some m := by cases m <;> decide

theorem parseRequest_unit (k : ReqKind) (v : UnitId) (f : List Byte) (hk : kindHasUnit k = true)
    (hf : f.length < 256) : parseRequest (kindCode k :: byte v.val :: byte f.length :: 0 :: f) = parseUnitFields k v
    f := by
  unfold parseRequest; dsimp only; rw [kindOf_kindCode]; dsimp only; rw
      [toNat_byte _ hf, if_pos rfl, hk, unitOf_byte]; rfl

theorem parseRequest_plain (k : ReqKind) (f : List Byte) (hk : kindHasUnit k = false) (hf : f.length < 256) :
    parseRequest (kindCode k :: 0xFF#8 :: byte f.length :: 0 :: f) = parsePlainFields k f := by
  unfold parseRequest; dsimp only; rw [kindOf_kindCode]; dsimp only; rw [toNat_byte _ hf, if_pos rfl, hk]; rfl

end Sys2Proof.Machine
end

