-- ==== Sys2Proof/Laws/Ends.lean ====
section
/-! SUPPORT. What the ends of work do: streams, jobs and claims ended by an event stay ended through its other
consequences, in whatever order they are run; and what an end leaves alone. -/

namespace Sys2Proof.Machine

theorem fold_reaches {α : Type} {P : State → Prop} (f : State → α → State) (a : α) (ha : ∀ v, P (f v a))
    (hk : ∀ v b, P v → P (f v b)) (l : List α) (hm : a ∈ l) (v : State) : P (l.foldl f v) := by
  have keep : ∀ (l : List α) v, P v → P (l.foldl f v) := by
    intro l; induction l with
    | nil => intro v h; exact h
    | cons b l ih => intro v h; exact ih _ (hk _ _ h)
  induction l generalizing v with
  | nil => cases hm
  | cons b l ih =>
    rcases List.mem_cons.mp hm with rfl | hm
    · exact keep l _ (ha v)
    · exact ih hm _

/-- Context `k`, where it is a stream of channel `c`, is CONCLUDED. -/
def ChanStreamsOver (c : ChanId) (k : CtxId) (v : State) : Prop := ∀ x, streamAt k v = some x → x.chan = c → x.state
    = .concluded

theorem chanStreamsOver_winds {c k} {s t : State} (h : Winds s t) (g : ChanStreamsOver c k s) : ChanStreamsOver c k
    t := by
  intro y hy hc
  obtain ⟨x, hx, l⟩ := h.streams k y hy
  exact (l.2.2.2 (g x hx (l.1 ▸ hc))).1

theorem withdrawStream_concludes (k : CtxId) (s : State) : ∀ x, streamAt k (withdrawStream k s) = some x → x.state =
    .concluded := by
  unfold withdrawStream
  cases h : streamAt k s with
  | none => intro x hx; rw [h] at hx; cases hx
  | some z =>
    dsimp only
    intro x hx
    obtain ⟨y, hy, l⟩ := (winds_answerEnding (Winds.refl _) k).streams k x hx
    rw [streamAt_setStream] at hy
    cases hy
    refine (l.2.2.2 ?_).1
    dsimp only
    split
    · assumption
    · rfl

theorem withdrawStreamsOf_over (c : ChanId) (k : CtxId) (s : State) : ChanStreamsOver c k (withdrawStreamsOf c s) :=
    by
  unfold withdrawStreamsOf
  refine fold_reaches _ k (fun v => ?_) (fun v b hv => ?_) _ (by simp [allCtxs]) s
  · cases hk : streamAt k v with
    | none => intro x hx; dsimp only at hx; rw [hk] at hx; cases hx
    | some z =>
      dsimp only
      split
      · exact fun x hx _ => withdrawStream_concludes k v x hx
      · rename_i hne
        intro x hx hc; rw [hk] at hx; cases hx; exact absurd hc hne
  · cases hb : streamAt b v with
    | none => exact hv
    | some z =>
      dsimp only
      split
      · exact chanStreamsOver_winds (winds_withdrawStream (Winds.refl v) b) hv
      · exact hv

theorem map_foldl_answerJob (l : List Job) (st r) (s : State) : ((l.foldl (fun s j => answerJob j st r s) s)).map =
    s.map := by
  induction l generalizing s with
  | nil => rfl
  | cons a l ih => rw [List.foldl_cons, ih]; exact completeActive_map ..

theorem jobsOf_endJobs (p : Job → Bool) (st : Status) (s : State) : jobsOf (endJobs p st s).map =
    (jobsOf s.map).filter fun j => !p j := by
  unfold endJobs
  exact jobsOf_placesOf _ _

/-- No job for which `P` holds is held. -/
def JobsOver (P : Job → Prop) (v : State) : Prop := ∀ j ∈ jobsOf v.map, ¬ P j

theorem jobsOver_winds {P : Job → Prop} (hP : ∀ i j, SameJob j i → P j → P i) {s t : State} (h : Winds s t)
    (g : JobsOver P s) : JobsOver P t := by
  intro j hj hp
  obtain ⟨i, hi, l⟩ := h.jobs j hj
  exact g i hi (hP i j l hp)

/-- The claim of unit `w` meets `P` only where it can no longer leave. -/
def ClaimOver (w : UnitId) (P : Claim → Prop) (v : State) : Prop := canLeave (unitAt w v).claim = true → ¬ P
    (unitAt w v).claim

theorem claimOver_winds {w} {P : Claim → Prop} {s t : State} (h : Winds s t) (g : ClaimOver w P s) : ClaimOver w P t
    := by
  intro hc hp
  have e := h.claims w hc
  rw [e] at hc hp
  exact g hc hp

theorem leaveClaimsOf_over (c : ChanId) (w : UnitId) (s : State) : ClaimOver w (fun cl => cl.holder = some c)
    (leaveClaimsOf c s) := by
  unfold leaveClaimsOf
  refine fold_reaches _ w (fun v => ?_) (fun v b hv => ?_) _ (by simp [allUnits]) s
  · split
    · intro hc; rw [canLeave_leaveClaim] at hc; cases hc
    · rename_i hne; exact fun _ => hne
  · split
    · exact claimOver_winds (winds_leaveClaim (Winds.refl v) b _) hv
    · exact hv

theorem selectGrant_of_no_class {c r} {u : State} (h : kindClass r.kind = none) : selectGrant c r u = none := by
  unfold selectGrant
  rw [List.find?_eq_none]
  intro i _
  simp [isCandidate, h]

theorem units_answerEnding (k) (s : State) : (answerEnding k s).units = s.units := by
  unfold answerEnding; repeat' split
  all_goals simp

theorem units_concludeStream (k h) (s : State) : (concludeStream k h s).units = s.units := by
  unfold concludeStream; dsimp only; repeat' split
  all_goals simp [units_answerEnding]

theorem units_blockDone_ended (k st) (s : State) : (blockDone k (.ended st) s).units = s.units := by
  unfold blockDone
  split
  · rfl
  · split
    · rfl
    · split
      all_goals first | (rename_i h; cases h; done) | (rename_i h _; cases h; done) | simp [units_answerEnding, units_concludeStream]

theorem units_endActive (j st r) (s : State) : (endActive j st r s).units = s.units := by
  unfold endActive answerJob; simp

theorem units_rowDone_ended (st) (s : State) : (rowDone (.ended st) s).units = s.units := by
  unfold rowDone; repeat' split
  all_goals first | rfl | (rename_i h; cases h; done) | (rename_i h _; cases h; done) | simp [units_endActive]

theorem units_deliver_ended (v e st) (s : State) : (deliverResult v e (.ended st) s).units = s.units := by
  unfold deliverResult
  split
  · split
    · simp [modeEnterDone]
    · simp
  · exact units_blockDone_ended ..
  · exact units_rowDone_ended ..
  · rfl

theorem units_foldl {α : Type} (f : State → α → State) (hf : ∀ v a, (f v a).units = v.units) (l : List α)
    (s : State) : (l.foldl f s).units = s.units := by
  induction l generalizing s with
  | nil => rfl
  | cons a l ih => rw [List.foldl_cons, ih, hf]

theorem units_endJobs (p st) (s : State) : (endJobs p st s).units = s.units := by
  unfold endJobs; dsimp only
  exact units_foldl _ (fun v a => by simp [answerJob]) _ _

theorem unitAt_congr {v} {s t : State} (h : s.units = t.units) : unitAt v s = unitAt v t := by unfold unitAt; rw [h]

theorem units_endHolderWork (p v h) (s : State) : (endHolderWork p v h s).units =
    (setUnit v { unitAt v s with
      wait := (unitAt v s).wait.filter fun e => !(needsClaimOf h e && !p e) } s).units := by
  unfold endHolderWork
  dsimp only
  rw [units_foldl, units_endJobs]
  · unfold removeWaiting; dsimp only
    rw [units_foldl _ (fun w e => units_deliver_ended ..)]
  · intro w k
    split
    · split
      · exact units_concludeStream ..
      · rfl
    · rfl

/-- With no entry spared, the former holder's waiting entries that need the claim leave the list (R64). -/
theorem units_endHolderWork_all (v h) (s : State) : (endHolderWork (fun _ => false) v h s).units =
    (setUnit v { unitAt v s with wait := (unitAt v s).wait.filter fun e => !needsClaimOf h e } s).units := by
  rw [units_endHolderWork]; simp only [Bool.not_false, Bool.and_true]

theorem concludeStream_concludes (k how) (s : State) : ∀ x, streamAt k (concludeStream k how s) = some x → x.state =
    .concluded := by
  unfold concludeStream
  cases h : streamAt k s with
  | none => intro x hx; dsimp only at hx; rw [h] at hx; cases hx
  | some z =>
    dsimp only
    split
    · rename_i hc; intro x hx; rw [h] at hx; cases hx; exact hc
    · intro x hx
      have key : Winds (setStream k (some { z with state := .concluded, concluded := some how, slotB := [], idle :=
          none }) s) (if z.slotA.isNone = true then answerEnding k
          (setStream k (some { z with state := .concluded, concluded := some how, slotB := [], idle := none }) s)
          else setStream k (some { z with state := .concluded, concluded := some how, slotB := [], idle := none })
          s) := by
        split
        · exact winds_answerEnding (Winds.refl _) k
        · exact Winds.refl _
      obtain ⟨y, hy, l⟩ := key.streams k x hx
      rw [streamAt_setStream] at hy
      cases hy
      exact (l.2.2.2 rfl).1

/-- Context `k`, where its stream meets `P`, is CONCLUDED. -/
def StreamsOver (P : Stream → Prop) (k : CtxId) (v : State) : Prop := ∀ x, streamAt k v = some x → P x → x.state =
    .concluded

theorem streamsOver_winds {P : Stream → Prop} (hP : ∀ x y, LaterStream y x → P y → P x) {k} {s t : State}
    (h : Winds s t) (g : StreamsOver P k s) : StreamsOver P k t := by
  intro y hy hc
  obtain ⟨x, hx, l⟩ := h.streams k y hy
  exact (l.2.2.2 (g x hx (hP _ _ l hc))).1

theorem endHolderWork_over (p v h) (s : State) : (∀ k, StreamsOver (fun x => x.chan = h ∧ x.unit = v) k
    (endHolderWork p v h s)) ∧ JobsOver (fun j => j.kind = .write ∧ j.chan = h ∧ j.unit = v) (endHolderWork p v h s) :=
    by
  unfold endHolderWork
  dsimp only
  constructor
  · intro k
    refine fold_reaches _ k (fun w => ?_) (fun w b hw => ?_) _ (by simp [allCtxs]) _
    · cases hk : streamAt k w with
      | none => intro x hx; dsimp only at hx; rw [hk] at hx; cases hx
      | some z =>
        dsimp only
        split
        · exact fun x hx _ => concludeStream_concludes k _ w x hx
        · rename_i hne
          intro x hx hc; rw [hk] at hx; cases hx; exact absurd hc hne
    · cases hb : streamAt b w with
      | none => exact hw
      | some z =>
        dsimp only
        split
        · exact streamsOver_winds (fun x y l hc => ⟨l.1 ▸ hc.1, l.2.1 ▸ hc.2⟩)
              (winds_concludeStream (Winds.refl w) b _) hw
        · exact hw
  · have hwin : ∀ t : State, Winds t (allCtxs.foldl (fun s k =>
      match streamAt k s with
      | some x => if x.chan = h ∧ x.unit = v then concludeStream k .aborted s else s
      | none => s) t) := by
      intro t
      refine winds_foldl _ (fun w b hw => ?_) _ _ (Winds.refl t)
      split
      · split
        · exact winds_concludeStream hw _ _
        · exact hw
      · exact hw
    refine jobsOver_winds (fun i j l hp => ⟨l.1 ▸ hp.1, l.2.1 ▸ hp.2.1, l.2.2.1 ▸ hp.2.2⟩) (hwin _) ?_
    intro j hj
    rw [jobsOf_endJobs, List.mem_filter] at hj
    have := hj.2
    rintro ⟨a, b, c⟩
    simp [a, b, c] at this

theorem holder_of_release_admitted {c v} {u : State} (h : refusalOf c (.modeRelease v) u = none) :
    (unitAt v u).claim.holder = some c ∧ ((unitAt v u).claim.state = .attended ∨ (unitAt v u).claim.state = .flash)
    := by
  unfold refusalOf at h
  rw [List.findSome?_eq_none_iff] at h
  have h5 := h (claimStage c (.modeRelease v) u) (by simp [stages])
  simp only [id, claimStage, holderTest] at h5
  split at h5
  · rename_i hh
    unfold holdsClaim at hh
    simpa using hh
  · cases h5

theorem leaveClaimSparing_working {v h} {s : State} (p : Entry → Bool) (hh : (unitAt v s).claim.holder = some h)
    (hs : (unitAt v s).claim.state = .attended ∨ (unitAt v s).claim.state = .flash) (r : ClaimReason) :
   leaveClaimSparing p v r s = endHolderWork p v h (placeEntry v baseEntry
       (setUnit v { unitAt v s with claim := leavingClaim (unitAt v s).claim r, claimTimer := none } s)) := by
  unfold leaveClaimSparing
  have hc : canLeave (unitAt v s).claim = true := by unfold canLeave; rcases hs with e | e <;> rw [e] <;> rfl
  have hne : (unitAt v s).claim.state ≠ .entering := by rcases hs with e | e <;> rw [e] <;> simp
  dsimp only
  rw [if_pos hc, if_neg hne, hh]
  dsimp only
  rw [if_neg (by simp [hne])]

theorem leaveClaim_working {v h} {s : State} (hh : (unitAt v s).claim.holder = some h)
    (hs : (unitAt v s).claim.state = .attended ∨ (unitAt v s).claim.state = .flash) (r : ClaimReason) :
   leaveClaim v r s = endHolderWork (fun _ => false) v h (placeEntry v baseEntry
       (setUnit v { unitAt v s with claim := leavingClaim (unitAt v s).claim r, claimTimer := none } s)) :=
  leaveClaimSparing_working _ hh hs r

theorem placeEntry_base {v} {s : State} (h : (unitAt v s).out.isSome = true ∨ (unitAt v s).wait = []) :
   (unitAt v (placeEntry v baseEntry s)).claim = (unitAt v s).claim ∧
       (unitAt v (placeEntry v baseEntry s)).claimTimer = (unitAt v s).claimTimer ∧
   ((unitAt v s).out = none → (unitAt v (placeEntry v baseEntry s)).out = some baseEntry ∧
       (unitAt v (placeEntry v baseEntry s)).wait = []) ∧
   ((unitAt v s).out ≠ none → (unitAt v (placeEntry v baseEntry s)).out = (unitAt v s).out ∧
       (unitAt v (placeEntry v baseEntry s)).wait = baseEntry :: (unitAt v s).wait) := by
  unfold placeEntry
  dsimp only
  cases ho : (unitAt v s).out with
  | none =>
    rw [ho] at h
    have hw : (unitAt v s).wait = [] := by simpa using h
    rw [hw]
    simp only [Option.isNone_none, List.isEmpty_nil, Bool.and_self, if_true]
    unfold makeOutstanding enterQueue
    simp only [unitAt_setUnit]
    split
    · rw [unitAt_setUnit]; simp [hw]
    · rw [unitAt_setUnit]; simp [hw]
  | some e =>
    simp only [Option.isNone_some, Bool.false_and]
    simp only [show baseEntry.source = .base from rfl, if_true, Bool.false_eq_true, if_false, unitAt_setUnit]
    simp [ho]

theorem unitAt_noteAdmission (c r g n v) (u : State) : unitAt v (noteAdmission c r g n u) = unitAt v u := by
  unfold unitAt; rw [noteAdmission_units]

theorem runAll_reaches {P : State → Prop} (q : Consequence) (hq : ∀ v, P (runConsequence q v))
    (hk : ∀ v w, Winds v w → P v → P w) (picks all) (hm : q ∈ all) (s : State) : P (runAll picks all s) :=
  runInOrder_reaches q hq (fun p v hv => hk v _ (winds_runConsequence (Winds.refl v) p) hv) _ _ _ _ rfl (Or.inl hm)

/-- A property every consequence of the list keeps. -/
theorem runAll_keeps {P : State → Prop} (all : List Consequence) (hk : ∀ q ∈ all, ∀ v, P v → P (runConsequence q v))
    (picks) (s : State) (h : P s) : P (runAll picks all s) := by
  unfold runAll
  have : ∀ (n : Nat) (picks : List Nat) (left : List Consequence) (v : State), (∀ q ∈ left, q ∈ all) → P v → P
      (runInOrder n picks left v) := by
    intro n
    induction n with
    | zero => intro _ _ _ _ h; exact h
    | succ n ih =>
      intro picks left v hl h
      unfold runInOrder
      cases hq : left[picks.headD 0 % left.length]? with
      | none => exact h
      | some q =>
        refine ih _ _ _ (fun p hp => hl p (List.mem_of_mem_eraseIdx hp)) (hk q (hl q (List.mem_of_getElem? hq)) v h)
  exact this _ _ _ _ (fun _ h => h) h

theorem runAll_reaches_kept {P : State → Prop} (q : Consequence) (all : List Consequence) (hm : q ∈ all)
    (hq : ∀ v, P (runConsequence q v)) (hk : ∀ q ∈ all, ∀ v, P v → P (runConsequence q v)) (picks) (s : State) : P
    (runAll picks all s) := by
  unfold runAll
  have : ∀ (n : Nat) (picks : List Nat) (left : List Consequence) (v : State), left.length = n →
      (∀ q ∈ left, q ∈ all) → (q ∈ left ∨ P v) → P (runInOrder n picks left v) := by
    intro n
    induction n with
    | zero =>
      intro picks left v hl _ h
      rw [List.length_eq_zero_iff] at hl
      subst hl
      rcases h with h | h
      · cases h
      · exact h
    | succ n ih =>
      intro picks left v hl hs hm
      unfold runInOrder
      have hlt : picks.headD 0 % left.length < left.length := Nat.mod_lt _ (by omega)
      rw [List.getElem?_eq_getElem hlt]
      refine ih _ _ _ (by rw [List.length_eraseIdx_of_lt hlt]; omega)
          (fun p hp => hs p (List.mem_of_mem_eraseIdx hp)) ?_
      rcases hm with hm | hm
      · by_cases he : left[picks.headD 0 % left.length] = q
        · right; rw [he]; exact hq v
        · left
          obtain ⟨i, hi, hiq⟩ := List.getElem_of_mem hm
          have hne : i ≠ picks.headD 0 % left.length := by rintro rfl; exact he hiq
          rw [List.mem_eraseIdx_iff_getElem]
          exact ⟨i, hi, hne, hiq⟩
      · exact Or.inr (hk _ (hs _ (List.getElem_mem hlt)) _ hm)
  exact this _ _ _ _ rfl (fun _ h => h) (Or.inl hm)

theorem winds_monitor_busFault {s t : State} (h : Winds s t) : Winds s (handBusFault t) := winds_observed h t.trail
    _

/-- Among the units, only unit `v`'s wait list, outstanding entry, awaited reply and tag may differ. -/
def UnitOnly (v : UnitId) (s t : State) : Prop :=
  ∃ (w : List Entry) (o : Option Entry) (a : Option Awaited) (g : BitVec 4), t.units =
      (setUnit v { unitAt v s with wait := w, out := o, awaited := a, tag := g } s).units

theorem unitOnly_of_eq {v} {s t : State} (h : t.units = s.units) : UnitOnly v s t :=
  ⟨(unitAt v s).wait, (unitAt v s).out, (unitAt v s).awaited, (unitAt v s).tag, by
      rw [h]; show s.units = s.units.set v.val s.units[v.val] v.isLt; exact (Vector.set_getElem_self ..).symm⟩

theorem unitOnly_trans {v} {a b c : State} (h : UnitOnly v a b) (g : UnitOnly v b c) : UnitOnly v a c := by
  obtain ⟨w, o, x, t, h⟩ := h
  obtain ⟨w2, o2, x2, t2, g⟩ := g
  refine ⟨w2, o2, x2, t2, ?_⟩
  rw [g]
  have : unitAt v b = { unitAt v a with wait := w, out := o, awaited := x, tag := t } := by
    rw [unitAt_congr h]; exact unitAt_setUnit ..
  rw [this]
  simp [setUnit, h]

theorem unitOnly_get {v w} {a b : State} (h : UnitOnly v a b) : (unitAt w b).claim = (unitAt w a).claim ∧
    (unitAt w b).claimTimer = (unitAt w a).claimTimer ∧ (unitAt w b).presence = (unitAt w a).presence ∧
    (unitAt w b).defn = (unitAt w a).defn ∧ (unitAt w b).reasm = (unitAt w a).reasm := by
  obtain ⟨ww, o, x, t, h⟩ := h
  rw [unitAt_congr h]
  by_cases e : w = v
  · subst e; rw [unitAt_setUnit]; exact ⟨rfl, rfl, rfl, rfl, rfl⟩
  · rw [unitAt_setUnit_ne _ _ _ _ (Ne.symm e)]; exact ⟨rfl, rfl, rfl, rfl, rfl⟩

theorem unitOnly_setUnit (v) (s : State) (w o a g) : UnitOnly v s
    (setUnit v { unitAt v s with wait := w, out := o, awaited := a, tag := g } s) := ⟨w, o, a, g, rfl⟩

theorem unitOnly_removeWaiting (v p st) (s : State) : UnitOnly v s (removeWaiting v p st s) := by
  unfold removeWaiting; dsimp only
  refine unitOnly_trans (unitOnly_setUnit v s ((unitAt v s).wait.filter fun e => !p e) (unitAt v s).out
      (unitAt v s).awaited (unitAt v s).tag) (unitOnly_of_eq ?_)
  exact units_foldl _ (fun w e => units_deliver_ended ..) _ _

theorem unitOnly_unqueue (v) (s : State) : (unqueue v s).units = s.units := by
  unfold unqueue; split <;> rfl

theorem unitOnly_completeOut (v st) (s : State) : UnitOnly v s (completeOut v (.ended st) s) := by
  unfold completeOut
  split
  · exact unitOnly_of_eq rfl
  · dsimp only
    rename_i e _
    exact unitOnly_trans (unitOnly_of_eq (units_deliver_ended v e st s))
        (unitOnly_setUnit v _ (unitAt v (deliverResult v e (.ended st) s)).wait none none
        (unitAt v (deliverResult v e (.ended st) s)).tag)

theorem unitOnly_withdrawEntries (v p st) (s : State) : UnitOnly v s (withdrawEntries v p st s) := by
  unfold withdrawEntries withdrawOut
  refine unitOnly_trans (unitOnly_removeWaiting v p st s) ?_
  split
  · exact unitOnly_of_eq rfl
  · split
    · exact unitOnly_trans (unitOnly_of_eq (unitOnly_unqueue ..)) (unitOnly_completeOut ..)
    · exact unitOnly_of_eq rfl

theorem unitOnly_enterQueue (v e) (s : State) : UnitOnly v s (enterQueue v e s) := by
  unfold enterQueue
  dsimp only
  split
  · exact unitOnly_of_eq rfl
  · exact ⟨_, _, _, _, rfl⟩

theorem unitOnly_makeOutstanding (v e) (s : State) : UnitOnly v s (makeOutstanding v e s) :=
  unitOnly_trans (unitOnly_setUnit v s (unitAt v s).wait (some e) (unitAt v s).awaited (unitAt v s).tag)
      (unitOnly_enterQueue v e _)

theorem unitOnly_placeEntry (v e) (s : State) : UnitOnly v s (placeEntry v e s) := by
  unfold placeEntry; dsimp only
  split
  · exact unitOnly_makeOutstanding ..
  · split
    · exact ⟨_, _, _, _, rfl⟩
    · exact ⟨_, _, _, _, rfl⟩

theorem unitOnly_endHolderWork (p v h) (s : State) : UnitOnly v s (endHolderWork p v h s) :=
  ⟨_, _, _, _, units_endHolderWork p v h s⟩

/-- What leaving does to the unit records (R61). -/
theorem leaveClaimSparing_units (p v r) (s : State) (hc : canLeave (unitAt v s).claim = true) :
   UnitOnly v (setUnit v { unitAt v s with claim := leavingClaim (unitAt v s).claim r, claimTimer := none } s)
       (leaveClaimSparing p v r s) := by
  unfold leaveClaimSparing
  dsimp only
  rw [if_pos hc]
  have h2 : UnitOnly v (setUnit v { unitAt v s with claim := leavingClaim (unitAt v s).claim r, claimTimer := none }
      s) (placeEntry v baseEntry (if (unitAt v s).claim.state = .entering then withdrawEntries v isModeEnter
      (leavingAnswer (some r)) (setUnit v { unitAt v s with claim := leavingClaim (unitAt v s).claim r, claimTimer
      := none } s) else setUnit v { unitAt v s with claim := leavingClaim (unitAt v s).claim r, claimTimer := none }
      s)) := by
    refine unitOnly_trans ?_ (unitOnly_placeEntry ..)
    split
    · exact unitOnly_withdrawEntries ..
    · exact unitOnly_of_eq rfl
  split
  · split
    · exact h2
    · exact unitOnly_trans h2 (unitOnly_endHolderWork ..)
  · exact h2

theorem leaveClaim_units (v r) (s : State) (hc : canLeave (unitAt v s).claim = true) :
   UnitOnly v (setUnit v { unitAt v s with claim := leavingClaim (unitAt v s).claim r, claimTimer := none } s)
       (leaveClaim v r s) :=
  leaveClaimSparing_units _ v r s hc

theorem leaveClaim_claim (v r) (s : State) (hc : canLeave (unitAt v s).claim = true) :
   (unitAt v (leaveClaim v r s)).claim = leavingClaim (unitAt v s).claim r ∧
       (unitAt v (leaveClaim v r s)).claimTimer = none := by
  have := unitOnly_get (w := v) (leaveClaim_units v r s hc)
  rw [unitAt_setUnit] at this
  exact ⟨this.1, this.2.1⟩

/-- The bus controllers are as they were, and BUS_FAULT stays set. -/
def KeepsBuses (s t : State) : Prop := t.buses = s.buses ∧ (s.monitor.busFault = true → t.monitor.busFault = true)

theorem keepsBuses_refl (s : State) : KeepsBuses s s := ⟨rfl, id⟩

theorem keepsBuses_trans {a b c : State} (h : KeepsBuses a b) (g : KeepsBuses b c) : KeepsBuses a c :=
    ⟨g.1.trans h.1, fun e => g.2 (h.2 e)⟩

theorem keepsBuses_freezeTrigger (c) (s : State) : KeepsBuses s (freezeTrigger c s) := by
  unfold freezeTrigger; split <;> exact ⟨rfl, id⟩

theorem keepsBuses_report (r) (s : State) : KeepsBuses s (report r s) := by
  unfold report addCounts; dsimp only
  split
  · exact keepsBuses_refl s
  · split
    · refine keepsBuses_trans ?_ (keepsBuses_freezeTrigger _ _); exact ⟨rfl, id⟩
    · exact ⟨rfl, id⟩

theorem keepsBuses_haltEntry (c k) (s : State) : KeepsBuses s (haltEntry c k s) := by
  unfold haltEntry; dsimp only; split <;> exact ⟨rfl, id⟩

theorem keepsBuses_offerReply (r a) (s : State) : KeepsBuses s (offerReply r a s) := by
  unfold offerReply; dsimp only
  split
  · exact ⟨rfl, id⟩
  · split
    · exact keepsBuses_trans (keepsBuses_report _ s) (keepsBuses_haltEntry _ _ _)
    · exact keepsBuses_report _ s

theorem keepsBuses_completeActive (c st p) (s : State) : KeepsBuses s (completeActive c st p s) := by
  unfold completeActive; split
  · exact keepsBuses_refl s
  · dsimp only; split
    · exact keepsBuses_offerReply _ _ s
    · exact ⟨rfl, id⟩

theorem keepsBuses_answerEnding (k) (s : State) : KeepsBuses s (answerEnding k s) := by
  unfold answerEnding; split
  · exact keepsBuses_refl s
  · split
    · exact keepsBuses_refl s
    · refine keepsBuses_trans ?_ (keepsBuses_completeActive _ _ _ _); exact ⟨rfl, id⟩

theorem keepsBuses_concludeStream (k h) (s : State) : KeepsBuses s (concludeStream k h s) := by
  unfold concludeStream; dsimp only; split
  · exact keepsBuses_refl s
  · split
    · exact keepsBuses_refl s
    · split
      · refine keepsBuses_trans ?_ (keepsBuses_answerEnding _ _); exact ⟨rfl, id⟩
      · exact ⟨rfl, id⟩

theorem keepsBuses_blockDone (k st) (s : State) : KeepsBuses s (blockDone k (.ended st) s) := by
  unfold blockDone
  split
  · exact keepsBuses_refl s
  · split
    · exact keepsBuses_refl s
    · split
      · rename_i h _; cases h
      · rename_i h _; cases h
      · refine keepsBuses_trans ?_ (keepsBuses_answerEnding _ _); exact ⟨rfl, id⟩
      · refine keepsBuses_trans ?_ (keepsBuses_concludeStream _ _ _); exact ⟨rfl, id⟩

theorem keepsBuses_endActive (j st r) (s : State) : KeepsBuses s (endActive j st r s) := by
  unfold endActive answerJob; exact keepsBuses_completeActive _ _ _ s

theorem keepsBuses_rowDone (st) (s : State) : KeepsBuses s (rowDone (.ended st) s) := by
  unfold rowDone
  split
  · exact keepsBuses_refl s
  · split
    · exact ⟨rfl, id⟩
    · exact ⟨rfl, id⟩
    · dsimp only; refine keepsBuses_trans ?_ (keepsBuses_endActive _ _ _ _); exact ⟨rfl, id⟩

theorem keepsBuses_deliverResult (v e st) (s : State) : KeepsBuses s (deliverResult v e (.ended st) s) := by
  unfold deliverResult
  split
  · split
    · exact keepsBuses_completeActive _ _ _ s
    · exact keepsBuses_completeActive _ _ _ s
  · exact keepsBuses_blockDone ..
  · exact keepsBuses_rowDone ..
  · exact keepsBuses_refl s

theorem keepsBuses_foldl {α : Type} (f : State → α → State) (hf : ∀ v a, KeepsBuses v (f v a)) (l : List α)
    (s : State) : KeepsBuses s (l.foldl f s) := by
  induction l generalizing s with
  | nil => exact keepsBuses_refl s
  | cons a l ih => exact keepsBuses_trans (hf s a) (ih _)

theorem keepsBuses_endJobs (p st) (s : State) : KeepsBuses s (endJobs p st s) := by
  unfold endJobs; dsimp only
  exact keepsBuses_foldl _ (fun v a => keepsBuses_completeActive _ _ _ v) _ s

theorem keepsBuses_endUnitWork (u r st) (s : State) : KeepsBuses s (endUnitWork u r st s) := by
  unfold endUnitWork; dsimp only
  have h1 : ∀ t : State, KeepsBuses s t → KeepsBuses s
      (List.foldl (fun s e => deliverResult u e (.ended st) s) t ((unitAt u s).out.toList ++ (unitAt u s).wait)) :=
      fun t h => keepsBuses_trans h (keepsBuses_foldl _ (fun v a => keepsBuses_deliverResult _ _ _ v) _ t)
  have h2 := h1 (setUnit u { unitAt u s with out := none, wait := [], awaited := none, reasm := none } s) ⟨rfl, id⟩
  split
  · exact h2
  · refine keepsBuses_trans h2 ?_
    unfold answerRelease; split
    · refine keepsBuses_trans ?_ (keepsBuses_completeActive _ _ _ _); exact ⟨rfl, id⟩
    · exact ⟨rfl, id⟩

theorem busAt_setBus_other {a b : BusId} (x) (s : State) (h : a ≠ b) : busAt a (setBus b x s) = busAt a s := by
  cases a <;> cases b <;> first | contradiction | rfl

/-- Units keep their definitions, buses their message in transmission; waiting and outstanding entries are old ones
    or base requests. -/
structure Winnow (s t : State) : Prop where
  tx : ∀ b, (busAt b t).tx = (busAt b s).tx
  defn : ∀ w, (unitAt w t).defn = (unitAt w s).defn
  wait : ∀ w, ∀ e ∈ (unitAt w t).wait, e ∈ (unitAt w s).wait ∨ e = baseEntry
  out : ∀ w, ((unitAt w t).out = (unitAt w s).out ∧ (unitAt w t).awaited = (unitAt w s).awaited) ∨ (unitAt w t).out
      = none ∨ (unitAt w t).out = some baseEntry

theorem Winnow.refl (s : State) : Winnow s s := ⟨fun _ => rfl, fun _ => rfl, fun _ _ h => Or.inl h, fun _ => Or.inl
    ⟨rfl, rfl⟩⟩

theorem Winnow.trans {a b c : State} (h : Winnow a b) (g : Winnow b c) : Winnow a c where
  tx x := (g.tx x).trans (h.tx x)
  defn w := (g.defn w).trans (h.defn w)
  wait w e he := by
    rcases g.wait w e he with k | k
    · exact h.wait w e k
    · exact Or.inr k
  out w := by
    rcases g.out w with k | k | k
    · rcases h.out w with l | l | l
      · exact Or.inl ⟨k.1.trans l.1, k.2.trans l.2⟩
      · exact Or.inr (Or.inl (k.1.trans l))
      · exact Or.inr (Or.inr (k.1.trans l))
    · exact Or.inr (Or.inl k)
    · exact Or.inr (Or.inr k)

theorem winnow_of_eq {s t : State} (h : t.units = s.units) (hb : t.buses = s.buses) : Winnow s t := by
  have e : ∀ w, unitAt w t = unitAt w s := fun w => unitAt_congr h
  refine ⟨fun b => by unfold busAt; rw [hb], fun w => by rw [e], fun w x hx => Or.inl (by rwa [e] at hx), fun w => Or.inl (by rw [e]; exact ⟨rfl, rfl⟩)⟩

theorem winnow_setUnit {v : UnitId} {s : State} (x : UnitRec) (hd : x.defn = (unitAt v s).defn)
    (hw : ∀ e ∈ x.wait, e ∈ (unitAt v s).wait ∨ e = baseEntry)
   (ho : (x.out = (unitAt v s).out ∧ x.awaited = (unitAt v s).awaited) ∨ x.out = none ∨ x.out = some baseEntry) :
       Winnow s (setUnit v x s) := by
  refine ⟨fun b => rfl, fun w => ?_, fun w => ?_, fun w => ?_⟩
  all_goals
    by_cases e : v = w
    · subst e; simp only [unitAt_setUnit]; assumption
    · simp only [unitAt_setUnit_ne _ _ _ _ e]; first | rfl | done | exact fun _ h => Or.inl h | exact Or.inl ⟨by trivial, by trivial⟩

theorem winnow_removeWaiting (v p st) (s : State) : Winnow s (removeWaiting v p st s) := by
  unfold removeWaiting; dsimp only
  refine (winnow_setUnit (v := v) { unitAt v s with wait := (unitAt v s).wait.filter fun e => !p e } rfl
      (fun e he => Or.inl (List.mem_of_mem_filter he)) (Or.inl ⟨rfl, rfl⟩)).trans ?_
  exact winnow_of_eq (units_foldl _ (fun w e => units_deliver_ended ..) _ _)
      (keepsBuses_foldl _ (fun w e => keepsBuses_deliverResult _ _ _ w) _ _).1

theorem winnow_unqueue (v) (s : State) : Winnow s (unqueue v s) := by
  unfold unqueue
  split
  · exact Winnow.refl s
  · rename_i b _
    refine ⟨fun c => ?_, fun _ => rfl, fun _ _ h => Or.inl h, fun _ => Or.inl ⟨rfl, rfl⟩⟩
    by_cases e : c = b
    · subst e; rw [busAt_setBus]
    · rw [busAt_setBus_other _ _ e]

theorem winnow_completeOut (v st) (s : State) : Winnow s (completeOut v (.ended st) s) := by
  unfold completeOut
  split
  · exact Winnow.refl s
  · rename_i e _
    dsimp only
    refine (winnow_of_eq (units_deliver_ended v e st s) (keepsBuses_deliverResult v e st s).1).trans ?_
    exact winnow_setUnit _ rfl (fun e he => Or.inl he) (Or.inr (Or.inl rfl))

theorem winnow_withdrawEntries (v p st) (s : State) : Winnow s (withdrawEntries v p st s) := by
  unfold withdrawEntries withdrawOut
  refine (winnow_removeWaiting v p st s).trans ?_
  split
  · exact Winnow.refl _
  · split
    · exact (winnow_unqueue ..).trans (winnow_completeOut ..)
    · exact Winnow.refl _

theorem winnow_enterQueue (v e) (s : State) : Winnow s (enterQueue v e s) := by
  unfold enterQueue; dsimp only
  split
  · exact Winnow.refl s
  · rename_i d _
    refine ⟨fun c => ?_, fun w => ?_, fun w => ?_, fun w => ?_⟩
    · rw [busAt_setUnit]
      by_cases h : c = d.bus
      · subst h; rw [busAt_setBus]
      · rw [busAt_setBus_other _ _ h]
    all_goals
      by_cases h : v = w
      · subst h; simp only [unitAt_setUnit]; first | done | rfl | exact fun _ h => Or.inl h | exact Or.inl ⟨by trivial, by trivial⟩
      · simp only [unitAt_setUnit_ne _ _ _ _ h]; first | done | rfl | exact fun _ h => Or.inl h | exact Or.inl ⟨by trivial, by trivial⟩

theorem winnow_placeEntry_base (v) (s : State) : Winnow s (placeEntry v baseEntry s) := by
  unfold placeEntry; dsimp only
  split
  · unfold makeOutstanding
    exact (winnow_setUnit (v := v) { unitAt v s with out := some baseEntry } rfl (fun e he => Or.inl he)
        (Or.inr (Or.inr rfl))).trans (winnow_enterQueue ..)
  · refine winnow_setUnit _ rfl (fun e he => ?_) (Or.inl ⟨rfl, rfl⟩)
    simp only [show baseEntry.source = .base from rfl, if_true, List.mem_cons] at he
    rcases he with he | he
    · exact Or.inr he
    · exact Or.inl he

theorem winnow_endHolderWork (p v h) (s : State) : Winnow s (endHolderWork p v h s) := by
  unfold endHolderWork; dsimp only
  refine (winnow_removeWaiting v (fun e => needsClaimOf h e && !p e) .notClaimed s).trans ?_
  refine (winnow_of_eq (units_endJobs (fun j => j.kind == .write && j.chan == h && j.unit == v) .notClaimed _)
      (keepsBuses_endJobs _ _ _).1).trans ?_
  refine winnow_of_eq (units_foldl _ (fun w k => ?_) _ _) (keepsBuses_foldl _ (fun w k => ?_) _ _).1
  · split
    · split
      · exact units_concludeStream ..
      · rfl
    · rfl
  · split
    · split
      · exact keepsBuses_concludeStream ..
      · exact keepsBuses_refl _
    · exact keepsBuses_refl _

theorem winnow_leaveClaim (v r) (s : State) : Winnow s (leaveClaim v r s) := by
  unfold leaveClaim leaveClaimSparing; dsimp only
  split
  · have h2 : Winnow s (placeEntry v baseEntry (if (unitAt v s).claim.state = .entering then withdrawEntries v
        isModeEnter (leavingAnswer (some r)) (setUnit v
        { unitAt v s with claim := leavingClaim (unitAt v s).claim r, claimTimer := none } s) else setUnit v
        { unitAt v s with claim := leavingClaim (unitAt v s).claim r, claimTimer := none } s)) := by
      refine Winnow.trans ?_ (winnow_placeEntry_base ..)
      have h1 : Winnow s (setUnit v { unitAt v s with claim := leavingClaim (unitAt v s).claim r, claimTimer := none
          } s) := winnow_setUnit _ rfl (fun e he => Or.inl he) (Or.inl ⟨rfl, rfl⟩)
      split
      · exact h1.trans (winnow_withdrawEntries ..)
      · exact h1
    split
    · split
      · exact h2
      · exact h2.trans (winnow_endHolderWork ..)
    · exact h2
  · exact Winnow.refl s

theorem winnow_runConsequence {q} (hq : q ∈ moveConsequences ∨ q ∈ runConsequences) (s : State) : Winnow s
    (runConsequence q s) := by
  have : (∃ u, q = .interlockClaim u) ∨ (∃ u, q = .withdrawMove u) ∨ (∃ u, q = .withdrawRun u) ∨
      (∃ k, q = .streamInterlock k) ∨ q = .mapMove ∨ q = .mapRun := by
    rcases hq with hq | hq <;> simp only [moveConsequences, runConsequences, List.mem_append, List.mem_map,
        List.mem_singleton] at hq <;> rcases hq with ((⟨u, -, rfl⟩ | ⟨u, -, rfl⟩) | ⟨u, -, rfl⟩) | rfl <;> simp
  rcases this with ⟨u, rfl⟩ | ⟨u, rfl⟩ | ⟨u, rfl⟩ | ⟨u, rfl⟩ | rfl | rfl <;> unfold runConsequence <;> dsimp only
  · split
    · exact winnow_leaveClaim ..
    · exact Winnow.refl s
  · exact winnow_withdrawEntries ..
  · exact winnow_withdrawEntries ..
  · exact winnow_of_eq (units_concludeStream ..) (keepsBuses_concludeStream ..).1
  · exact winnow_of_eq (units_endJobs ..) (keepsBuses_endJobs ..).1
  · exact winnow_of_eq (units_endJobs ..) (keepsBuses_endJobs ..).1

theorem isBegun_winnow {w} {s t : State} (h : Winnow s t) (ha : (unitAt w t).awaited = (unitAt w s).awaited) :
    isBegun w t = isBegun w s := by
  unfold isBegun inTransmission
  have hb : unitBus w t = unitBus w s := by unfold unitBus; rw [h.defn]
  rw [ha, hb]
  cases unitBus w s with
  | none => rfl
  | some b => dsimp only; rw [h.tx]

end Sys2Proof.Machine
end

