-- ==== Sys2Proof/Laws/Freezes.lean ====
section
/-! SUPPORT. What the ends of work do to the trail: withdrawn and concluded work writes no record, and at most one FREEZE record
is written, when a dropped reply wraps an escalating counter while the freeze is OFF. -/

namespace Sys2Proof.Machine

/-- The trail and the freeze are as they were, or the freeze went ON with its one FREEZE record. -/
def FreezesOnly (s t : State) : Prop :=
  (t.trail = s.trail ∧ t.monitor.freeze = s.monitor.freeze) ∨
    (s.monitor.freeze = none ∧ ∃ cause, t.monitor.freeze = some cause ∧
      t.trail = appendRecord s.trail none none none none (.freeze cause))

theorem FreezesOnly.refl (s : State) : FreezesOnly s s := Or.inl ⟨rfl, rfl⟩

theorem FreezesOnly.trans {a b c : State} (h : FreezesOnly a b) (g : FreezesOnly b c) : FreezesOnly a c := by
  rcases h with ⟨h1, h2⟩ | ⟨h1, k, h2, h3⟩
  · rcases g with ⟨g1, g2⟩ | ⟨g1, k, g2, g3⟩
    · exact Or.inl ⟨g1.trans h1, g2.trans h2⟩
    · exact Or.inr ⟨h2 ▸ g1, k, g2, h1 ▸ g3⟩
  · rcases g with ⟨g1, g2⟩ | ⟨g1, _⟩
    · exact Or.inr ⟨h1, k, g2.trans h2, g1.trans h3⟩
    · rw [h2] at g1; cases g1

theorem freezesOnly_of_eq {s t : State} (h : t.trail = s.trail) (hm : t.monitor = s.monitor) : FreezesOnly s t :=
  Or.inl ⟨h, by rw [hm]⟩

theorem freezesOnly_freezeTrigger (c) (s : State) : FreezesOnly s (freezeTrigger c s) := by
  unfold freezeTrigger
  split
  · exact .refl s
  · exact Or.inr ⟨by assumption, c, rfl, rfl⟩

theorem freezesOnly_report (r) (s : State) : FreezesOnly s (report r s) := by
  unfold report addCounts
  dsimp only
  split
  · exact .refl s
  · split
    · exact .trans (Or.inl ⟨rfl, rfl⟩) (freezesOnly_freezeTrigger _ _)
    · exact Or.inl ⟨rfl, rfl⟩

theorem freezesOnly_haltEntry (c k) (s : State) : FreezesOnly s (haltEntry c k s) := by
  unfold haltEntry
  dsimp only
  split <;> exact freezesOnly_of_eq rfl rfl

theorem freezesOnly_offerReply (r a) (s : State) : FreezesOnly s (offerReply r a s) := by
  unfold offerReply
  dsimp only
  split
  · exact freezesOnly_of_eq rfl rfl
  · split
    · exact (freezesOnly_report _ s).trans (freezesOnly_haltEntry _ _ _)
    · exact freezesOnly_report _ s

theorem freezesOnly_completeActive (c st p) (s : State) : FreezesOnly s (completeActive c st p s) := by
  unfold completeActive
  split
  · exact .refl s
  · dsimp only
    split
    · exact (freezesOnly_offerReply _ _ s).trans (freezesOnly_of_eq rfl rfl)
    · exact freezesOnly_of_eq rfl rfl

theorem freezesOnly_answerEnding (k) (s : State) : FreezesOnly s (answerEnding k s) := by
  unfold answerEnding
  split
  · exact .refl s
  · split
    · exact .refl s
    · exact .trans (freezesOnly_of_eq rfl rfl) (freezesOnly_completeActive _ _ _ _)

theorem freezesOnly_concludeStream (k h) (s : State) : FreezesOnly s (concludeStream k h s) := by
  unfold concludeStream
  dsimp only
  split
  · exact .refl s
  · split
    · exact .refl s
    · split
      · exact .trans (freezesOnly_of_eq rfl rfl) (freezesOnly_answerEnding _ _)
      · exact freezesOnly_of_eq rfl rfl

theorem freezesOnly_blockDone (k st) (s : State) : FreezesOnly s (blockDone k (.ended st) s) := by
  unfold blockDone
  split
  · exact .refl s
  · split
    · exact .refl s
    · split
      · rename_i h _; cases h
      · rename_i h _; cases h
      · exact .trans (freezesOnly_of_eq rfl rfl) (freezesOnly_answerEnding _ _)
      · exact .trans (freezesOnly_of_eq rfl rfl) (freezesOnly_concludeStream _ _ _)

theorem freezesOnly_endActive (j st r) (s : State) : FreezesOnly s (endActive j st r s) := by
  unfold endActive answerJob
  exact (freezesOnly_completeActive _ _ _ s).trans (freezesOnly_of_eq rfl rfl)

theorem freezesOnly_rowDone (st) (s : State) : FreezesOnly s (rowDone (.ended st) s) := by
  unfold rowDone
  split
  · exact .refl s
  · split
    · exact freezesOnly_of_eq rfl rfl
    · exact freezesOnly_of_eq rfl rfl
    · exact .trans (freezesOnly_of_eq rfl rfl) (freezesOnly_endActive _ _ _ _)

theorem freezesOnly_deliverResult (v e st) (s : State) : FreezesOnly s (deliverResult v e (.ended st) s) := by
  unfold deliverResult
  split
  · split
    · exact freezesOnly_completeActive _ _ _ s
    · exact freezesOnly_completeActive _ _ _ s
  · exact freezesOnly_blockDone ..
  · exact freezesOnly_rowDone ..
  · exact .refl s

theorem freezesOnly_foldl {α : Type} (f : State → α → State) (hf : ∀ v a, FreezesOnly v (f v a)) (l : List α)
    (s : State) : FreezesOnly s (l.foldl f s) := by
  induction l generalizing s with
  | nil => exact .refl s
  | cons a l ih => exact (hf s a).trans (ih _)

theorem freezesOnly_endJobs (p st) (s : State) : FreezesOnly s (endJobs p st s) := by
  unfold endJobs
  dsimp only
  exact (freezesOnly_foldl _ (fun v a => freezesOnly_completeActive _ _ _ v) _ s).trans (freezesOnly_of_eq rfl rfl)

theorem freezesOnly_removeWaiting (v p st) (s : State) : FreezesOnly s (removeWaiting v p st s) := by
  unfold removeWaiting
  dsimp only
  exact .trans (freezesOnly_of_eq rfl rfl) (freezesOnly_foldl _ (fun w e => freezesOnly_deliverResult _ _ _ w) _ _)

theorem freezesOnly_unqueue (v) (s : State) : FreezesOnly s (unqueue v s) := by
  unfold unqueue
  split <;> exact freezesOnly_of_eq rfl rfl

theorem freezesOnly_completeOut (v st) (s : State) : FreezesOnly s (completeOut v (.ended st) s) := by
  unfold completeOut
  split
  · exact .refl s
  · exact (freezesOnly_deliverResult ..).trans (freezesOnly_of_eq rfl rfl)

theorem freezesOnly_withdrawEntries (v p st) (s : State) : FreezesOnly s (withdrawEntries v p st s) := by
  unfold withdrawEntries withdrawOut
  refine (freezesOnly_removeWaiting v p st s).trans ?_
  split
  · exact .refl _
  · split
    · exact (freezesOnly_unqueue ..).trans (freezesOnly_completeOut ..)
    · exact .refl _

theorem freezesOnly_placeEntry (v e) (s : State) : FreezesOnly s (placeEntry v e s) := by
  unfold placeEntry makeOutstanding enterQueue
  dsimp only
  split
  · split <;> exact freezesOnly_of_eq rfl rfl
  · exact freezesOnly_of_eq rfl rfl

theorem freezesOnly_endHolderWork (p v h) (s : State) : FreezesOnly s (endHolderWork p v h s) := by
  unfold endHolderWork
  dsimp only
  refine (freezesOnly_removeWaiting v (fun e => needsClaimOf h e && !p e) .notClaimed s).trans
    ((freezesOnly_endJobs (fun j => j.kind == .write && j.chan == h && j.unit == v) .notClaimed _).trans ?_)
  refine freezesOnly_foldl _ (fun w k => ?_) _ _
  split
  · split
    · exact freezesOnly_concludeStream ..
    · exact .refl _
  · exact .refl _

theorem freezesOnly_leaveClaimSparing (p v r) (s : State) : FreezesOnly s (leaveClaimSparing p v r s) := by
  unfold leaveClaimSparing
  dsimp only
  split
  · have left : FreezesOnly s (setUnit v
        { unitAt v s with claim := leavingClaim (unitAt v s).claim r, claimTimer := none } s) :=
      freezesOnly_of_eq rfl rfl
    have placed : ∀ t, FreezesOnly s t → FreezesOnly s (placeEntry v baseEntry t) :=
      fun t h => h.trans (freezesOnly_placeEntry ..)
    have withdrawn : ∀ b : Bool, FreezesOnly s (if b = true then withdrawEntries v isModeEnter (leavingAnswer (some r))
        (setUnit v { unitAt v s with claim := leavingClaim (unitAt v s).claim r, claimTimer := none } s)
        else setUnit v { unitAt v s with claim := leavingClaim (unitAt v s).claim r, claimTimer := none } s) := by
      intro b
      split
      · exact left.trans (freezesOnly_withdrawEntries ..)
      · exact left
    have both := placed _ (withdrawn (decide ((unitAt v s).claim.state = .entering)))
    simp only [decide_eq_true_eq] at both
    split
    · split
      · exact both
      · exact both.trans (freezesOnly_endHolderWork ..)
    · exact both
  · exact .refl s

theorem freezesOnly_grantConsequence {ended} {g : Slot} {q} (hq : q ∈ grantConsequences ended g) (s : State) :
    FreezesOnly s (runConsequence q s) := by
  simp only [grantConsequences, List.mem_append, List.mem_map, List.mem_singleton] at hq
  rcases hq with ((⟨u, -, rfl⟩ | ⟨u, -, rfl⟩) | ⟨k, -, rfl⟩) | rfl <;> unfold runConsequence <;> dsimp only
  · split
    · exact freezesOnly_leaveClaimSparing ..
    · exact .refl s
  · split
    · exact freezesOnly_leaveClaimSparing ..
    · exact .refl s
  · split
    · exact freezesOnly_concludeStream ..
    · exact .refl s
  · exact freezesOnly_endJobs ..

/-- The consequences of a grant's end, in any order, add at most a FREEZE record to the trail (R18). -/
theorem freezesOnly_grantEnd (ended) (g : Slot) (picks : List Nat) (s : State) :
    FreezesOnly s (runAll picks (grantConsequences ended g) s) :=
  runAll_keeps (P := FreezesOnly s) (grantConsequences ended g)
    (fun _ hq v hv => hv.trans (freezesOnly_grantConsequence hq v)) picks s (.refl s)

end Sys2Proof.Machine
end

