-- ==== Sys2Proof/Laws/GrantEnds.lean ====
section
/-! SUPPORT. What the end of a grant does to the unit records: units whose claim does not carry it keep theirs, and a held claim
leaves with the entries R17 or R64 spares (log 33). -/

namespace Sys2Proof.Machine

/-- A claim's leaving leaves every other unit's record as it is. -/
theorem leaveClaimSparing_other {v w : UnitId} (h : v ≠ w) (p : Entry → Bool) (r : ClaimReason) (s : State) :
    unitAt w (leaveClaimSparing p v r s) = unitAt w s := by
  cases hc : canLeave (unitAt v s).claim with
  | false => rw [leaveClaimSparing_still hc]
  | true =>
    obtain ⟨q, o, a, g, e⟩ := leaveClaimSparing_units p v r s hc
    rw [unitAt_congr e, unitAt_setUnit_ne _ _ _ _ h, unitAt_setUnit_ne _ _ _ _ h]

/-- The unit record after its claim, held in ATTENDED or FLASH, has left while an entry was outstanding (R61, R64), the
waiting entries `p` spared (R17). -/
def leftRecord (p : Entry → Bool) (h : ChanId) (r : ClaimReason) (un : UnitRec) : UnitRec :=
  { un with
    claim := leavingClaim un.claim r
    claimTimer := none
    wait := baseEntry :: un.wait.filter fun e => !(needsClaimOf h e && !p e) }

/-- A claim held in ATTENDED or FLASH leaves while an entry is outstanding: the record is `leftRecord`. -/
theorem leaveClaimSparing_held {v h} {s : State} (hh : (unitAt v s).claim.holder = some h)
    (hs : (unitAt v s).claim.state = .attended ∨ (unitAt v s).claim.state = .flash) (ho : (unitAt v s).out ≠ none)
    (p : Entry → Bool) (r : ClaimReason) :
    unitAt v (leaveClaimSparing p v r s) = leftRecord p h r (unitAt v s) := by
  rw [leaveClaimSparing_working p hh hs, unitAt_congr (units_endHolderWork ..), unitAt_setUnit]
  obtain ⟨e, ho⟩ := Option.ne_none_iff_exists'.mp ho
  unfold placeEntry
  simp only [unitAt_setUnit, ho, Option.isNone_some, Bool.false_and, Bool.false_eq_true, if_false,
    show baseEntry.source = .base from rfl, if_true, leftRecord, List.filter_cons, show needsClaimOf h baseEntry = false from rfl,
    Bool.not_false]

/-- What one consequence of the end of grant `g` does to a unit record: nothing, or its claim leaves (R17, R18). -/
theorem grantConsequence_unit {ended} {g : Slot} {q} (hq : q ∈ grantConsequences ended g) (w : UnitId) (v : State) :
    unitAt w (runConsequence q v) = unitAt w v ∨ (unitAt w v).claim.grant = some g ∧
      ((q = .grantRequests w g ended ∧
        runConsequence q v = leaveClaimSparing (singleRequestUnder ended) w .grantEnded v) ∨
      (q = .grantClaim w g ∧ runConsequence q v = leaveClaimSparing (fun _ => false) w .grantEnded v)) := by
  simp only [grantConsequences, List.mem_append, List.mem_map, List.mem_singleton] at hq
  rcases hq with ((⟨x, -, rfl⟩ | ⟨x, -, rfl⟩) | ⟨k, -, rfl⟩) | rfl <;> unfold runConsequence leaveClaim <;> dsimp only
  · split
    · rename_i hg
      by_cases hx : x = w
      · subst hx; exact Or.inr ⟨hg, Or.inl ⟨rfl, rfl⟩⟩
      · exact Or.inl (leaveClaimSparing_other hx ..)
    · exact Or.inl rfl
  · split
    · rename_i hg
      by_cases hx : x = w
      · subst hx; exact Or.inr ⟨hg, Or.inr ⟨rfl, rfl⟩⟩
      · exact Or.inl (leaveClaimSparing_other hx ..)
    · exact Or.inl rfl
  · split
    · exact Or.inl (unitAt_congr (units_concludeStream ..))
    · exact Or.inl rfl
  · exact Or.inl (unitAt_congr (units_endJobs ..))

/-- A unit record whose claim does not carry the grant, or cannot leave, is as before. -/
theorem grantConsequence_still {ended} {g : Slot} {q} (hq : q ∈ grantConsequences ended g) {w : UnitId} {v : State}
    (h : (unitAt w v).claim.grant ≠ some g ∨ canLeave (unitAt w v).claim = false) :
    unitAt w (runConsequence q v) = unitAt w v := by
  rcases grantConsequence_unit hq w v with e | ⟨hg, e⟩
  · exact e
  · have hc := h.resolve_left fun k => k hg
    rcases e with ⟨-, e⟩ | ⟨-, e⟩ <;> rw [e, leaveClaimSparing_still hc]

/-- The two consequences that reach a unit's claim make a held one leave. -/
theorem grantConsequence_reaches {ended} {g : Slot} {q} (w : UnitId)
    (hq : q = .grantRequests w g ended ∨ q = .grantClaim w g) {un : UnitRec} (hg : un.claim.grant = some g)
    (hc : canLeave un.claim = true) (v : State) : unitAt w (runConsequence q v) ≠ un := by
  have key : ∀ p, unitAt w (if (unitAt w v).claim.grant = some g then leaveClaimSparing p w .grantEnded v else v) ≠ un := by
    intro p e
    split at e
    · have := canLeave_leaveClaimSparing p w .grantEnded v
      rw [e, hc] at this; cases this
    · rename_i hne; exact hne (by rw [e]; exact hg)
  rcases hq with rfl | rfl
  · exact key _
  · exact key _

/-- With no order given, the consequences are taken as they stand. -/
theorem runAll_nil (all : List Consequence) (s : State) :
    runAll [] all s = all.foldl (fun v q => runConsequence q v) s := by
  unfold runAll
  induction all generalizing s with
  | nil => rfl
  | cons q rest ih =>
    unfold runInOrder
    simp only [List.headD_nil, Nat.zero_mod, List.getElem?_cons_zero, List.eraseIdx_cons_zero, List.tail_nil,
      List.foldl_cons]
    exact ih _

/-- What the consequences of a grant's end do to the unit records: in any order, and in the order they stand (R17, R18). -/
theorem grantEnd_units (ended) (g : Slot) (picks : List Nat) (s : State) (w : UnitId) :
    ((unitAt w s).claim.grant ≠ some g ∨ canLeave (unitAt w s).claim = false →
      unitAt w (runAll picks (grantConsequences ended g) s) = unitAt w s) ∧
    (∀ h, (unitAt w s).claim.grant = some g → (unitAt w s).claim.state = .attended ∨ (unitAt w s).claim.state = .flash →
      (unitAt w s).claim.holder = some h → (unitAt w s).out ≠ none →
      (unitAt w (runAll picks (grantConsequences ended g) s) =
          leftRecord (singleRequestUnder ended) h .grantEnded (unitAt w s) ∨
        unitAt w (runAll picks (grantConsequences ended g) s) =
          leftRecord (fun _ => false) h .grantEnded (unitAt w s)) ∧
      (picks = [] → unitAt w (runAll picks (grantConsequences ended g) s) =
        leftRecord (singleRequestUnder ended) h .grantEnded (unitAt w s))) := by
  refine ⟨fun h => ?_, fun h hg hs hh ho => ?_⟩
  · exact runAll_keeps (P := fun v => unitAt w v = unitAt w s) _
      (fun q hq v hv => (grantConsequence_still hq (by rw [hv]; exact h)).trans hv) picks s rfl
  have hc : canLeave (unitAt w s).claim = true := by
    unfold canLeave; rcases hs with e | e <;> rw [e] <;> rfl
  have gone : ∀ p, canLeave (leftRecord p h .grantEnded (unitAt w s)).claim = false := fun _ => rfl
  have after : ∀ p q, q ∈ grantConsequences ended g → ∀ v, unitAt w v = leftRecord p h .grantEnded (unitAt w s) →
      unitAt w (runConsequence q v) = leftRecord p h .grantEnded (unitAt w s) :=
    fun p q hq v hv => (grantConsequence_still hq (Or.inr (by rw [hv]; exact gone p))).trans hv
  have before : ∀ p v, unitAt w v = unitAt w s →
      unitAt w (leaveClaimSparing p w .grantEnded v) = leftRecord p h .grantEnded (unitAt w s) := by
    intro p v hv
    rw [← hv] at hs hh ho ⊢
    exact leaveClaimSparing_held hh hs ho p _
  refine ⟨?_, fun hp => ?_⟩
  · have kept := runAll_keeps (P := fun v => unitAt w v = unitAt w s ∨
        unitAt w v = leftRecord (singleRequestUnder ended) h .grantEnded (unitAt w s) ∨
        unitAt w v = leftRecord (fun _ => false) h .grantEnded (unitAt w s))
      (grantConsequences ended g) (fun q hq v hv => by
        rcases hv with hv | hv | hv
        · rcases grantConsequence_unit hq w v with e | ⟨-, ⟨-, e⟩ | ⟨-, e⟩⟩
          · exact Or.inl (e.trans hv)
          · exact Or.inr (Or.inl (by rw [e]; exact before _ v hv))
          · exact Or.inr (Or.inr (by rw [e]; exact before _ v hv))
        · exact Or.inr (Or.inl (after _ q hq v hv))
        · exact Or.inr (Or.inr (after _ q hq v hv))) picks s (Or.inl rfl)
    have left := runAll_reaches_kept (P := fun v => unitAt w v ≠ unitAt w s) (.grantClaim w g) (grantConsequences ended g)
      (by simp [grantConsequences, allUnits]) (grantConsequence_reaches (ended := ended) w (Or.inr rfl) hg hc)
      (fun q hq v hv e => by
        rcases grantConsequence_unit hq w v with k | ⟨-, ⟨k, -⟩ | ⟨k, -⟩⟩
        · exact hv (k ▸ e)
        · exact grantConsequence_reaches w (Or.inl k) hg hc v e
        · exact grantConsequence_reaches (ended := ended) w (Or.inr k) hg hc v e) picks s
    exact kept.resolve_left left
  · subst hp
    let first : List Consequence := allUnits.map fun u => .grantRequests u g ended
    have hf : ∀ q ∈ first, q ∈ grantConsequences ended g := fun q hq => by
      unfold grantConsequences; simp only [List.append_assoc]; exact List.mem_append_left _ hq
    have kept := runAll_keeps (P := fun v => unitAt w v = unitAt w s ∨
        unitAt w v = leftRecord (singleRequestUnder ended) h .grantEnded (unitAt w s))
      first (fun q hq v hv => by
        rcases hv with hv | hv
        · rcases grantConsequence_unit (hf q hq) w v with e | ⟨-, ⟨-, e⟩ | ⟨k, -⟩⟩
          · exact Or.inl (e.trans hv)
          · exact Or.inr (by rw [e]; exact before _ v hv)
          · obtain ⟨x, -, hx⟩ := List.mem_map.mp hq
            rw [k] at hx; cases hx
        · exact Or.inr (after _ q (hf q hq) v hv)) [] s (Or.inl rfl)
    have left := runAll_reaches_kept (P := fun v => unitAt w v ≠ unitAt w s) (.grantRequests w g ended) first
      (by simp [first, allUnits]) (grantConsequence_reaches w (Or.inl rfl) hg hc)
      (fun q hq v hv e => by
        rcases grantConsequence_unit (hf q hq) w v with k | ⟨-, ⟨k, -⟩ | ⟨k, -⟩⟩
        · exact hv (k ▸ e)
        · exact grantConsequence_reaches w (Or.inl k) hg hc v e
        · exact grantConsequence_reaches (ended := ended) w (Or.inr k) hg hc v e) [] s
    have reached := kept.resolve_left left
    have rest : grantConsequences ended g = first ++ ((allUnits.map fun u => Consequence.grantClaim u g) ++
        ((allCtxs.map fun k => Consequence.streamGrant k g) ++ [.mapGrant g])) := by
      simp only [grantConsequences, first, List.append_assoc]
    rw [rest, runAll_nil, List.foldl_append, ← runAll_nil, ← runAll_nil]
    exact runAll_keeps (P := fun v => unitAt w v = leftRecord (singleRequestUnder ended) h .grantEnded (unitAt w s)) _
      (fun q hq v hv => after _ q (by rw [rest]; exact List.mem_append_right _ hq) v hv) [] _ reached

end Sys2Proof.Machine
end

