-- ==== Sys2Proof/WellFormed.lean ====
section
/-! DEFINITION. Which commands can occur on the wires: the checks that the types of `Instr` do not make.
`exec` is total and does not consult them (every rule of the manual decides on what arrives). -/

namespace Sys2Proof

/-- The CAN FD frame lengths of R165. -/
def canFdLengths : List Nat := [0, 1, 2, 3, 4, 5, 6, 7, 8, 12, 16, 20, 24, 32, 48, 64]

/-- A frame has a CAN FD length (R165). -/
def frameWf (frame : List Byte) : Bool := canFdLengths.contains frame.length

/-- A body delivered to a channel is at most 244 bytes: 4 of header and 240 of fields (R68, 11.2). -/
def ReqMsg.wf (m : ReqMsg) : Bool := m.fields.length ≤ 240

/-- A WRITE MESSAGE transaction has its kind byte (R159). -/
def mosiWf (mosi : List Byte) : Bool := 1 ≤ mosi.length

/-- The counter form of MONITOR SETUP is not the global form: its counter argument is not FFh (R134, R135). -/
def SetupArgs.wf (a : SetupArgs) : Bool := a.counter != 0xFF#8

/-- The well-formed commands. -/
def Instr.wf : Instr → Bool
  | .validSegment _ frame => frameWf frame
  | .writeMessage _ mosi _ => mosiWf mosi
  | .channelOpen m => m.wf
  | .channelClose m => m.wf
  | .itemRead m => m.wf
  | .faultRead m => m.wf
  | .faultClear m => m.wf
  | .routine m => m.wf
  | .windowRead m => m.wf
  | .windowWrite m => m.wf
  | .mapRead m => m.wf
  | .mapWrite m => m.wf
  | .modeClaim m => m.wf
  | .keep m => m.wf
  | .modeRelease m => m.wf
  | .streamOpen m => m.wf
  | .block m => m.wf
  | .streamEnd m => m.wf
  | .streamAbort m => m.wf
  | .unitReplySegment _ _ frame => frameWf frame
  | .monitorSetup _ a => a.wf
  | .powerOn => true
  | .resetNAsserted => true
  | .rawLineChange _ _ => true
  | .filterTimerExpiry _ _ => true
  | .gapTimerExpiry _ => true
  | .linkTimerExpiry _ => true
  | .sptReplyTransmit => true
  | .readReply _ _ => true
  | .readStatus _ _ => true
  | .messageBegin _ => true
  | .frameSent _ => true
  | .frameFailed _ _ => true
  | .recoveryTimerExpiry _ => true
  | .replyTimerExpiry _ => true
  | .waitListPromotion _ => true
  | .streamContextFreed _ => true
  | .mapJobStart => true
  | .stagedRequestPromotion _ => true
  | .channelDrained _ => true
  | .claimTimerExpiry _ => true
  | .presenceTimerExpiry _ => true
  | .idleTimerExpiry _ => true
  | .grantExpiry _ _ => true
  | .sampleTimerExpiry => true
  | .grantInstall _ _ => true
  | .grantSuspend _ _ => true
  | .grantResume _ _ => true
  | .grantRecharge _ _ _ => true
  | .grantRevoke _ _ _ => true
  | .grantQuery _ _ => true
  | .unitDefine _ _ => true
  | .unitClear _ _ => true
  | .claimEnd _ _ => true
  | .channelHalt _ _ _ => true
  | .channelClear _ _ _ => true
  | .monitorSetupGlobal _ _ _ => true
  | .monitorRead _ _ => true
  | .monitorPreload _ _ _ => true
  | .monitorAcknowledge _ _ _ _ => true
  | .freeze _ => true
  | .unfreeze _ => true
  | .trailRead _ _ => true
  | .portSetup _ _ _ => true
  | .statusRead _ => true
  | .gatewayReset _ => true
  | .sptReplyFrameDone _ => true

end Sys2Proof
end

