-- ==== Sys2Proof/Tests/Slice0.lean ====
section
/-! SUPPORT. The author's own tests: the well-formedness checks refuse ill-formed terms, one step of most commands on a
small state, and for every obligation with hypotheses a state and operands that meet them (`witness_…`), clause by clause. -/

set_option Elab.async false

namespace Sys2Proof.Tests.Slice0

open Sys2Proof Sys2Proof.Machine

/-! ### Small states -/

/-- The state a command that is taken acts on. -/
def taken (s : State) : State := advance (settle s)

theorem takenAt {s : State} (h : s.inReset = false) : TakenAt s (taken s) := ⟨h, rfl⟩

/-- Some state in which a command is taken meets `P`. -/
def Meets (s : State) (P : State → Prop) : Prop := ∃ u, TakenAt s u ∧ P u

theorem meets {s : State} {P : State → Prop} (h : s.inReset = false) (p : P (taken s)) : Meets s P :=
  ⟨taken s, takenAt h, p⟩

/-- The conditions of `AtIdle`, as one that can be decided. -/
def idleFor (m : ReqMsg) (u : State) : Bool :=
  let ch := chanAt m.chan u
  ch.state == .idle && ch.expect == m.buf && (bufferAt m.buf ch).isNone && ch.active.isNone && ch.staged.isNone &&
    ch.binding.isNone

theorem atIdle {m : ReqMsg} {u : State} (h : idleFor m u = true) : AtIdle m u := by
  simp only [idleFor, Bool.and_eq_true, beq_iff_eq, Option.isNone_iff_eq_none] at h
  exact ⟨h.1.1.1.1.1, h.1.1.1.1.2, h.1.1.1.2, h.1.1.2, h.1.2, h.2⟩

/-- The conditions of `AtStream`, as one that can be decided. -/
def streamFor (m : ReqMsg) (k : CtxId) (u : State) : Bool :=
  let ch := chanAt m.chan u
  ch.state == .streaming && ch.expect == m.buf && (bufferAt m.buf ch).isNone && ch.staged.isNone && ch.binding == some k

theorem atStream {m : ReqMsg} {k : CtxId} {u : State} (h : streamFor m k u = true) : AtStream m k u := by
  simp only [streamFor, Bool.and_eq_true, beq_iff_eq, Option.isNone_iff_eq_none] at h
  exact ⟨h.1.1.1.1, h.1.1.1.2, h.1.1.2, h.1.2, h.2⟩

/-- The message that spells a request, at channel `c` and buffer X. -/
def msgOf (c : ChanId) (r : Request) : ReqMsg where
  chan := c
  buf := .x
  unit := requestUnitByte r
  len := byte (requestFields r).length
  reserved := 0
  fields := requestFields r

/-- The part awake, its tables empty. -/
def awake : State := State.powerOn ⟨true, false, false⟩

/-- Unit 5 on UB0: a LIVE window of 2,048 bytes that holds a map of 16 by 16 bytes, and a FLASH_TARGET window of 64 KiB. -/
def def5 : UnitDef where
  bus := .ub0
  reqId := 0x205
  repId := 0x285
  timeout := 200
  windows := #v[some ⟨0x100, .g256, 8, true, false⟩, some ⟨0x20, .g4096, 16, false, true⟩, none, none]
  maps := #v[some ⟨0, 0, 1, 16, 16, 16⟩, none, none, none]

/-- An ACTIVE unmetered grant that matches everything. -/
def payer (p : Port) : Grant :=
  { Grant.vacant with
    state := .active, requester := p, unitMask := 15, classes := 255, itemMask := 0xFFFF, routineMask := 0xFFFF
    rights := Vector.replicate 4 .readWrite }

def idleChan : Channel := { Channel.initial with state := .idle }

/-- Unit 5 defined, grants for SERVICE and SUPERVISOR in slots 0 and 1, SPT.0 and SVP.0 IDLE. -/
def base : State :=
  setChan 8 idleChan (setChan 0 idleChan (setGrant 1 (payer .svp) (setGrant 0 (payer .spt)
    (setUnit 5 { UnitRec.initial with defn := some def5 } awake))))

/-- Unit 5's claim held by SPT.0. -/
def held (st : ClaimState) : Claim := { Claim.free with state := st, holder := some 0, grant := some 0, keep := 2000 }

def withClaim (cl : Claim) (s : State) : State :=
  setUnit 5 { unitAt 5 s with claim := cl, claimTimer := some 700, presence := some 300 } s

def attended : State := withClaim (held .attended) base
def flashing : State := withClaim (held .flash) base

/-- A stream of 64 bytes in blocks of 16, nothing taken yet. -/
def stream0 : Stream where
  chan := 0
  unit := 5
  window := 1
  start := 0
  total := 64
  size := 16
  policy := .strict
  grant := 0
  state := .filling
  concluded := none
  accepted := 0
  issued := 0
  confirmed := 0
  slotA := none
  slotB := []
  idle := some 900
  release := false
  endPending := none

def streamOn (x : Stream) : State :=
  setChan 0 { idleChan with state := .streaming, binding := some 0 } (setStream 0 (some x) flashing)

def inFlight : SlotA := ⟨0, List.replicate 16 0xAB#8⟩

def withFreeze (s : State) : State := { s with monitor := { s.monitor with freeze := some .command } }

def withLines (f : PerLine Bool) (s : State) : State := { s with filtered := f }

/-- A reply queue filled with `n` replies. -/
def withReplies (p : Port) (n : Nat) (s : State) : State :=
  setReplies p (List.replicate n ⟨chanOf p 0, .x, 1, .done, false, []⟩) s

def fetch : Entry := { source := .channel 0, msg := .itemFetch 0x1201, grant := some 0, window := none, keep := 0 }

def withOut (e : Entry) (s : State) : State := setUnit 5 { unitAt 5 s with out := some e } s

def env0 : Envelope := ⟨0, .x⟩

/-! ### Well-formedness: each check refuses an ill-formed term -/

theorem test_wf_frame_length_is_refused : Instr.wf (.validSegment 0 (List.replicate 9 0)) = false := by decide
theorem test_wf_unit_frame_length_is_refused : Instr.wf (.unitReplySegment .ub0 0 (List.replicate 65 0)) = false := by
  decide
theorem test_wf_long_body_is_refused : Instr.wf (.block ⟨0, .x, 0xFF, 0, 0, List.replicate 241 0⟩) = false := by
  decide +kernel
theorem test_wf_empty_write_is_refused : Instr.wf (.writeMessage .rpt [] []) = false := by decide
theorem test_wf_global_selector_is_refused : Instr.wf (.monitorSetup env0 ⟨0xFF, 1, 1, 1, 0, 0, 0, 0, 0, 0, 0⟩) = false := by
  decide
theorem test_wf_good_terms_pass :
    Instr.wf (.validSegment 0 (List.replicate 12 0)) = true ∧
    Instr.wf (.block ⟨0, .x, 0xFF, 240, 0, List.replicate 240 0⟩) = true ∧
    Instr.wf (.monitorSetup env0 ⟨7, 1, 1, 1, 0, 0, 0, 0, 0, 0, 0⟩) = true := by decide +kernel

/-! ### Bytes written out from chapter 11 -/

/-- ITEM READ of item 1201h at unit 5: kind 03h, unit 05h, 2 field bytes, reserved, the id little-endian. -/
theorem test_item_read_bytes : parseRequest [0x03, 0x05, 0x02, 0x00, 0x01, 0x12] = some (.itemRead 5 0x1201) := by decide

/-- WINDOW READ of 16 bytes at offset 100h of window 1. -/
theorem test_window_read_bytes :
    parseRequest [0x07, 0x05, 0x08, 0x00, 0x01, 0x00, 0x00, 0x01, 0x00, 0x00, 0x10, 0x00] =
      some (.windowRead 5 1 256 16) := by decide

/-- A wrong fields length is a form fault. -/
theorem test_bad_length_is_malformed : parseRequest [0x03, 0x05, 0x03, 0x00, 0x01, 0x12] = none := by decide

/-- GRANT RECHARGE 84h: slot 3, allowance 1000 (3E8h). -/
theorem test_recharge_bytes :
    parseCommand 0x84 [0x03, 0xE8, 0x03, 0x00, 0x00] = some (.grantRecharge 3 1000) := by rfl

/-- An ITEM FETCH of 1201h with tag 6: kind 21h, tag, 2 payload bytes, flags, the id. -/
theorem test_item_fetch_body : unitMsgBody 6 (.itemFetch 0x1201) = [0x21, 0x06, 0x02, 0x00, 0x01, 0x12] := by decide

/-- A 6-byte body goes in one frame of 8 bytes: header FIRST and LAST, length, data. -/
theorem test_one_segment : segmentFrame 0x205 0 .x [0x21, 0x06, 0x02, 0x00, 0x01, 0x12] 0 =
    ⟨0x205, [0xC0, 0x06, 0x21, 0x06, 0x02, 0x00, 0x01, 0x12]⟩ := by decide

/-! ### Witnesses: the step, the reset and the laws -/

/-- The state of a stream in progress: two of the laws' premises are not empty in it. -/
def busyState : State := streamOn { stream0 with accepted := 24, issued := 16, slotA := some inFlight, slotB := List.replicate 8 1 }

/-- Grants 0 to 2 count their seconds: inside one, at the end of one, at the end of the last. -/
def counting3 : State :=
  setGrant 2 { payer .rpt with expiry := 1, subMs := 999 } (setGrant 1 { payer .svp with expiry := 2, subMs := 999 }
    (setGrant 0 { payer .spt with expiry := 65535, subMs := 998 } base))

theorem witness_EmptyQueueIdles_grants_run :
    (let x := grantAt 0 (settle counting3)
     x.state ≠ .vacant ∧ x.expiry ≠ 0 ∧ x.subMs < 999) ∧
    (let x := grantAt 1 (settle counting3)
     x.state ≠ .vacant ∧ x.expiry ≠ 0 ∧ 999 ≤ x.subMs ∧ x.expiry ≠ 1) ∧
    (let x := grantAt 2 (settle counting3)
     x.state ≠ .vacant ∧ 999 ≤ x.subMs ∧ x.expiry = 1) ∧
    ((grantAt 3 (settle counting3)).state = .vacant ∧ (grantAt 0 (settle base)).expiry = 0) ∧
    counting3.pending = [] ∧ counting3.inReset = false := by decide +kernel

theorem witness_EmptyQueueIdlesOneMillisecond :
    (base.pending = [] ∧ base.inReset = false) ∧
    ({ base with inReset := true }.pending = [] ∧ { base with inReset := true }.inReset = true) := by decide +kernel

theorem witness_PowerOnAndResetAssertion :
    { base with inReset := true }.inReset = true ∧ Instr.sampleTimerExpiry ≠ .powerOn ∧
      Instr.sampleTimerExpiry ≠ .resetNAsserted ∧ ∀ l b, Instr.sampleTimerExpiry ≠ .rawLineChange l b :=
  ⟨rfl, by decide, by decide, fun _ _ h => by cases h⟩

theorem steps (s : State) : ∃ t, step { s with pending := [.freeze env0] } = .next t := by
  by_cases h : s.inReset = true
  · exact ⟨_, if_pos h⟩
  · exact ⟨_, if_neg h⟩

theorem witness_EveryStepKeepsTheTrailNumbered :
    ∃ s t, TrailNumbered s.trail ∧ s.trail.records ≠ [] ∧ step s = .next t :=
  ⟨{ writeRecord none none none none .reset base with pending := [.freeze env0] }, _,
    by unfold TrailNumbered; decide +kernel, by decide +kernel, (steps (writeRecord none none none none .reset base)).choose_spec⟩

theorem witness_EveryStepKeepsTheQueuesBounded :
    ∃ s t, step s = .next t ∧ RepliesBounded s ∧ (repliesAt .spt s).length = 12 ∧ MapPlaces s.map :=
  ⟨{ withReplies .spt 12 base with pending := [.freeze env0] }, _, (steps (withReplies .spt 12 base)).choose_spec,
    fun p => by cases p <;> decide +kernel, by decide +kernel, by unfold MapPlaces; decide +kernel⟩

theorem witness_EveryStepKeepsVacantSlotsInitial : ∃ s t, VacantClean s ∧ step s = .next t :=
  ⟨{ base with pending := [.freeze env0] }, _, by unfold VacantClean; decide +kernel, (steps base).choose_spec⟩

theorem witness_EveryStepKeepsFlashAtRest :
    ∃ s t, FlashOnlyAtRest s ∧ flashBound (unitAt 5 s).claim = true ∧ step s = .next t :=
  ⟨{ flashing with pending := [.freeze env0] }, _, by unfold FlashOnlyAtRest; decide +kernel, by decide +kernel,
    (steps flashing).choose_spec⟩

theorem busy_counted : StreamsCounted { busyState with pending := [.freeze env0] } := by
  intro k x h
  have h0 : ∀ k : CtxId, k ≠ 0 → streamAt k { busyState with pending := [.freeze env0] } = none := by decide +kernel
  by_cases hk : k = 0
  · subst hk
    rw [show streamAt 0 { busyState with pending := [.freeze env0] } =
      some { stream0 with accepted := 24, issued := 16, slotA := some inFlight, slotB := List.replicate 8 1 } by
        decide +kernel] at h
    cases h
    unfold StreamCounts
    decide
  · rw [h0 k hk] at h; cases h

theorem witness_EveryStepKeepsStreamCounts : ∃ s t, StreamsCounted s ∧ streamAt 0 s ≠ none ∧ step s = .next t :=
  ⟨{ busyState with pending := [.freeze env0] }, _, busy_counted, by decide +kernel, (steps busyState).choose_spec⟩

/-- Every kind at the ends of its operands' ranges. -/
theorem witness_RequestBodiesReadBack :
    ([.channelOpen, .channelClose, .itemRead 15 0xFFFF, .faultRead 0, .faultClear 15, .routine 0 0xFFFF [],
      .routine 0 0 (List.replicate 238 1), .windowRead 15 3 0xFFFFFFFF 0xFFFF, .windowWrite 0 3 0 (List.replicate 232 1),
      .mapRead 0 3 255 255 255 255, .mapWrite 0 3 255 255 255 255 0xFFFFFFFF 0 (List.replicate 224 1),
      .modeClaim 0 .flash 255, .keep 15, .modeRelease 15, .streamOpen 15 3 .lenient 255 0xFFFFFFFF 0xFFFFFFFF,
      .block [0], .block (List.replicate 240 1), .streamEnd, .streamAbort] : List Request).all Request.wf = true := by
  decide +kernel

/-! ### Witnesses: what the blocks report, record and queue -/

theorem witness_TrailIsWrittenAndRead :
    Meets base fun _ => ((0#8 = 0 ∨ 8 < (0#8).toNat) ∧ (9#8 = 0 ∨ 8 < (9#8).toNat)) ∧
      (1 ≤ (1#8).toNat ∧ (1#8).toNat ≤ 8) ∧ (1 ≤ (8#8).toNat ∧ (8#8).toNat ≤ 8) :=
  meets rfl (by decide)

/-- An enabled escalating counter of ADMITTED at its top. -/
def counting : State :=
  { base with
    monitor := { base.monitor with
      counters := base.monitor.counters.set 0 0xFFFFFFFF
      setups := base.monitor.setups.set 0 { Setup.initial with enable := true, escalate := true } } }

theorem witness_OccurrenceAdvancesPassingCounters :
    ((withFreeze base).monitor.freeze.isSome = true ∧ (withFreeze base).monitor.countWhileFrozen = false) ∧
    counting.monitor.freeze = none ∧
    (report ⟨.admitted, some .spt, some .ub0, some 5⟩ counting).monitor.freeze = some (.counter 1) ∧
    (report ⟨.admitted, some .spt, some .ub0, some 5⟩ counting).monitor.counters.get 0 = 0 := by decide +kernel

theorem witness_FreezeAndUnfreeze :
    (Meets base fun u => u.monitor.freeze = none) ∧ Meets (withFreeze base) fun u => u.monitor.freeze = some .command :=
  ⟨meets rfl (by decide +kernel), meets rfl (by decide +kernel)⟩

theorem witness_AlertFollowsFreezeAndStatus :
    base.inReset = false ∧ (withFreeze base).alert = true ∧ base.alert = false ∧ { base with inReset := true }.inReset = true := by
  decide +kernel

theorem witness_ReplyJoinsTheTailOrIsDropped :
    (repliesAt .spt (withReplies .spt 11 base)).length < 12 ∧ 12 ≤ (repliesAt .spt (withReplies .spt 12 base)).length ∧
    (chanAt 1 base).state = .closed ∧ (chanAt 0 base).state ≠ .closed ∧ (chanAt 0 base).state ≠ .halted := by
  decide +kernel

theorem witness_PlacedEntryTakesItsPosition :
    (unitAt 5 base).defn = some def5 ∧ (unitAt 5 base).out = none ∧ (unitAt 5 base).wait = [] ∧
    (unitAt 5 (withOut fetch base)).defn = some def5 ∧ (unitAt 5 (withOut fetch base)).out ≠ none ∧
    fetch.source ≠ .base ∧ baseEntry.source = .base := by decide +kernel

/-! ### Witnesses: the admission check -/

def fetchBody : List Byte := encodeRequest (.itemRead 5 0x1201)

def verdictOf : Verdict → Option (Request × Option Slot × Nat)
  | .refused _ => none
  | .admitted r g p => some (r, g, p.cost)

def busIs (st : BusState) (s : State) : State := setBus .ub0 { busAt .ub0 s with state := st } s

/-- Admitted: a paid read, a KEEP during a freeze, a CHANNEL OPEN; and each refusal of the second half. -/
theorem witness_AdmittedOnlyUnderTheLaws :
    verdictOf (check 0 fetchBody base) = some (.itemRead 5 0x1201, some 0, 1) ∧
    verdictOf (check 0 (encodeRequest (.keep 5)) (withFreeze attended)) = some (.keep 5, none, 0) ∧
    verdictOf (check 1 (encodeRequest .channelOpen) base) = some (.channelOpen, none, 0) ∧
    parseRequest [0x03] = none ∧ parseRequest fetchBody = some (.itemRead 5 0x1201) ∧
    ((unitAt 6 base).defn = none ∧ parseRequest (encodeRequest (.itemRead 6 1)) = some (.itemRead 6 1)) ∧
    ((withFreeze base).monitor.freeze ≠ none ∧ chanPort 0 ≠ .svp ∧
      ReqKind.itemRead ∉ [.keep, .modeRelease, .streamEnd, .streamAbort, .channelClose]) ∧
    (unitAt 5 base).defn = some def5 ∧ (busAt def5.bus (busIs .off base)).state = .off ∧
    (busAt def5.bus (busIs .asleep base)).state = .asleep := by decide +kernel

/-- The state is past the first four stages for a channel of SPT: unit 5 DEFINED on an ACTIVE bus, no freeze. -/
def past (s : State) : Bool :=
  (unitAt 5 s).defn == some def5 && (busAt .ub0 s).state == .active && s.monitor.freeze.isNone

/-- Each of the later stages is the first that fails, and one request fails none. -/
theorem witness_AdmittedOnlyUnderTheLaws_stages :
    (past base && past attended && past (setGrant 0 Grant.vacant base) && past (withLines ⟨true, false, true⟩ attended)) = true ∧
    grantStage 0 (.itemRead 5 1) (setGrant 0 Grant.vacant base) = some .noGrant ∧
    (grantStage 0 (.faultClear 5) base = none ∧ claimStage 0 (.faultClear 5) base = some .notClaimed) ∧
    (let s := withLines ⟨true, false, true⟩ attended
     grantStage 0 (.faultClear 5) s = none ∧ claimStage 0 (.faultClear 5) s = none ∧
       interlockStage (.faultClear 5) s = some .interlock) ∧
    (let r : Request := .windowRead 5 0 2048 1
     grantStage 0 r base = none ∧ claimStage 0 r base = none ∧ interlockStage r base = none ∧
       rangeStage r base = some .outOfWindow) ∧
    (let r : Request := .windowRead 5 0 2047 1
     grantStage 0 r base = none ∧ claimStage 0 r base = none ∧ interlockStage r base = none ∧ rangeStage r base = none ∧
       capacityStage r base = none) := by decide +kernel

/-- Unit 5 with an outstanding request and `n` requests and one row waiting. -/
def crowded (n : Nat) : State :=
  setUnit 5 { unitAt 5 attended with
    out := some fetch, wait := { fetch with source := .mapRow 1 } :: List.replicate n fetch } attended

/-- Four waiting requests fill a unit's places, a row not counted, three do not; so do four queued jobs and four bound contexts. -/
theorem witness_AdmittedOnlyUnderTheLaws_capacity :
    (capacityStage (.itemRead 5 1) (crowded 4) = some .unitBusy ∧ capacityStage (.itemRead 5 1) (crowded 3) = none ∧
      capacityStage (.modeClaim 5 .flash 0) (crowded 4) = some .unitBusy ∧
      (unitAt 5 (crowded 4)).claim.state = .attended ∧ capacityStage (.modeClaim 5 .attended 0) (crowded 4) = none) ∧
    (let j : Job := ⟨.read, 1, 5, 0, 0, 0, 0, 0, 1, 1, [], 0, [], false⟩
     let full := setMap ⟨some j, List.replicate 4 j, none⟩ attended
     (planOf (.mapWrite 5 0 0 0 0 0 0 0 [7]) full).cost ≠ 0 ∧ (planOf (.mapWrite 5 0 0 0 0 0 0 0xFF [7]) full).cost = 0 ∧
       capacityStage (.mapRead 5 0 0 0 0 0) full = some .engineBusy ∧
       capacityStage (.mapRead 5 0 0 0 0 0) (setMap ⟨some j, List.replicate 3 j, none⟩ attended) = none) ∧
    ((∀ k, streamAt k { base with streams := Vector.replicate 4 (some stream0) } ≠ none) ∧ streamAt 3 base = none) := by
  decide +kernel

/-- Grant 0 in a given state, metered and at its last unit or past it. -/
def paying (st : GrantState) (counter : BitVec 20) : State :=
  setGrant 0 { payer .spt with state := st, allowance := 100, counter := counter } base

theorem witness_GrantSelection :
    kindClass (Request.itemRead 5 1).kind = some 0 ∧
    selectGrant 0 (.itemRead 5 1) base = some 0 ∧ selectGrant 0 (.itemRead 5 1) (paying .active 0xFFFFF) = some 0 ∧
    grantStage 0 (.itemRead 5 1) (paying .active 0) = some .budget ∧
    grantStage 0 (.itemRead 5 1) (paying .suspended 1) = some .suspended ∧
    grantStage 0 (.itemRead 5 1) (paying .spent 0) = some .budget ∧
    grantStage 0 (.itemRead 5 1) (paying .armed 1) = some .noGrant := by decide +kernel

theorem witness_ChargeAdvancesTheBudgetCounter :
    remaining (grantAt 0 base) = none ∧ remaining (grantAt 0 (paying .active 0xFFFFF)) = some 1 ∧
    remaining (grantAt 0 (paying .active 0xFFFFE)) = some 2 ∧ remaining (grantAt 0 (paying .spent 0)) = some 0 ∧
    (grantAt 0 (setGrant 0 { grantAt 0 (paying .active 0xFFFFF) with escalate := true } base)).escalate = true ∧
    (base.monitor.freezeOnGrant = false ∧ base.monitor.escalated.getLsbD 0 = false) := by decide +kernel

theorem witness_ClaimStageTests :
    (Request.itemRead 5 1).kind ∈ [ReqKind.itemRead, .faultRead, .windowRead, .mapRead] ∧
    (Request.faultClear 5).kind ∈ [ReqKind.faultClear, .routine, .windowWrite, .mapWrite] ∧
    (Request.streamOpen 5 1 .strict 16 0 1).kind = .streamOpen ∧ (Request.modeClaim 5 .flash 0).kind = .modeClaim ∧
    (Request.modeRelease 5).kind ∈ [ReqKind.keep, .modeRelease] ∧
    claimStage 0 (.faultClear 5) attended = none ∧ claimStage 1 (.itemRead 5 1) attended = none ∧
    claimStage 1 (.itemRead 5 1) flashing = some .held := by decide +kernel

theorem witness_InterlockStageByLines :
    windowAt 5 2 base = none ∧ mapAt 5 1 base = none ∧
    interlockStage (.windowWrite 5 0 0 [1]) (withLines ⟨true, true, false⟩ base) = none ∧
    interlockStage (.windowWrite 5 1 0 [1]) (withLines ⟨true, true, false⟩ base) = some .interlock := by decide +kernel

def map0 : MapDef := ⟨0, 0, 1, 16, 16, 16⟩

/-- The last byte of a window and one past it; a MAP READ of the whole map, trimmed to 15 rows of 16. -/
theorem witness_RangeStageAndClipping :
    rangeStage (.windowRead 5 0 2032 16) base = none ∧ rangeStage (.windowRead 5 0 2033 16) base = some .outOfWindow ∧
    rangeStage (.windowRead 5 0 0 241) base = some .badLength ∧
    rangeStage (.streamOpen 5 1 .strict 16 65535 1) base = none ∧
    rangeStage (.streamOpen 5 1 .strict 15 0 1) base = some .badArgument ∧
    mapAt 5 0 base = some map0 ∧ mapAt 5 1 base = none ∧ map0.rows ≤ 16 ∧ 15 < map0.rows ∧ 0 < map0.columns ∧ map0.cell = 1 ∧
    (planOf (.mapRead 5 0 0 0 15 15) base).height = 15 ∧ (planOf (.mapRead 5 0 0 0 15 15) base).clamped = true := by
  decide +kernel

/-- A row of four cells whose ends match the key: one run of two cells, its bounds in and out of the row. -/
theorem witness_RangeStageAndClipping_runs :
    (planOf (.mapWrite 5 0 1 1 3 0 0xFF 0 [0xFF, 1, 2, 0xFF]) base).rows = [⟨0, 1, 2, 0x10012, 2, [1, 2]⟩] ∧
    ((planOf (.mapWrite 5 0 0 0 1 1 0xFF 0 [0xFF, 1, 2, 0xFF]) base).rows.map fun q => (q.row, q.column, q.cells)) =
      [(0, 1, 1), (1, 0, 1)] ∧
    mapAt 5 0 base = some map0 ∧ map0.cell = 1 := by decide +kernel

/-- A refusal of each of the four ways it is noted: NO_GRANT, INTERLOCK, OUT_OF_WINDOW, NOT_CLAIMED. -/
theorem witness_RefusedRequestIsAnsweredOnly :
    (Meets (paying .armed 1) fun u => AtIdle (msgOf 0 (.itemRead 5 1)) u ∧ HasRoom .spt u ∧
      check 0 (rowBody .itemRead (msgOf 0 (.itemRead 5 1))) u = .refused .noGrant) ∧
    (Meets (withLines ⟨true, false, true⟩ attended) fun u => AtIdle (msgOf 0 (.faultClear 5)) u ∧ HasRoom .spt u ∧
      check 0 (rowBody .faultClear (msgOf 0 (.faultClear 5))) u = .refused .interlock) ∧
    (Meets base fun u => AtIdle (msgOf 0 (.windowRead 5 0 2048 1)) u ∧ HasRoom .spt u ∧
      check 0 (rowBody .windowRead (msgOf 0 (.windowRead 5 0 2048 1))) u = .refused .outOfWindow) ∧
    (Meets base fun u => AtIdle (msgOf 0 (.faultClear 5)) u ∧ HasRoom .spt u ∧
      check 0 (rowBody .faultClear (msgOf 0 (.faultClear 5))) u = .refused .notClaimed) :=
  ⟨meets rfl ⟨atIdle (by decide +kernel), (by decide +kernel : (repliesAt .spt _).length < 12), by rfl⟩,
   meets rfl ⟨atIdle (by decide +kernel), (by decide +kernel : (repliesAt .spt _).length < 12), by rfl⟩,
   meets rfl ⟨atIdle (by decide +kernel), (by decide +kernel : (repliesAt .spt _).length < 12), by rfl⟩,
   meets rfl ⟨atIdle (by decide +kernel), (by decide +kernel : (repliesAt .spt _).length < 12), by rfl⟩⟩

/-- A channel state for each of the channel engine's answers to a message in buffer X. -/
theorem witness_RefusedRequestIsAnsweredOnly_channels :
    ((chanAt 1 base).state = .closed ∧ (chanAt 1 (setChan 1 { Channel.initial with state := .halted } base)).state = .halted) ∧
    (let ch := chanAt 0 (setChan 0 { idleChan with expect := .y } base)
     ch.state = .idle ∧ Buf.x ≠ ch.expect) ∧
    (let ch := chanAt 0 (setChan 0 { idleChan with state := .busy, bufX := some [3] } base)
     ch.state = .busy ∧ Buf.x = ch.expect ∧ bufferAt .x ch ≠ none) ∧
    ((chanAt 0 base).state = .idle ∧ Buf.x = (chanAt 0 base).expect ∧ bufferAt .x (chanAt 0 base) = none) ∧
    (let ch := chanAt 0 (setChan 0 { idleChan with state := .busy } base)
     ch.state = .busy ∧ Buf.x = ch.expect ∧ bufferAt .x ch = none ∧ ch.staged = none) ∧
    (let ch := chanAt 0 (streamOn stream0)
     ch.state = .streaming ∧ Buf.x = ch.expect ∧ bufferAt .x ch = none ∧ ch.active = none) ∧
    (kindOf (kindCode .block) = some .block ∧ kindOf (kindCode .itemRead) = some .itemRead ∧
      kindOf (kindCode .streamEnd) = some .streamEnd ∧ kindOf 0 ≠ some .channelOpen) := by decide +kernel

/-- A refusal of a promoted request, at a STREAMING channel, and one that a full queue drops. -/
theorem witness_RefusedRequestIsAnsweredOnly_anywhere :
    (∃ st, check 0 (encodeRequest (.faultClear 5)) (setChan 0 { idleChan with state := .busy } base) = .refused st) ∧
    (∃ st, check 0 (encodeRequest (.modeClaim 6 .flash 0)) (streamOn stream0) = .refused st) ∧
    (∃ st, check 0 [0x03] (withReplies .spt 12 base) = .refused st) ∧ 12 ≤ (repliesAt .spt (withReplies .spt 12 base)).length :=
  ⟨⟨_, rfl⟩, ⟨_, rfl⟩, ⟨_, rfl⟩, by decide +kernel⟩

/-! ### Witnesses: the request rows -/

/-- The request is spelled by its message, no stage refuses it and grant 0 pays. -/
def admits (r : Request) (u : State) : Bool :=
  parseRequest (rowBody r.kind (msgOf 0 r)) == some r && (refusalOf 0 r u).isNone && selectGrant 0 r u == some 0

/-- The premises that the admitted requests of SPT.0 share. -/
theorem admitted_idle {s : State} {r : Request} (h0 : s.inReset = false) (hi : idleFor (msgOf 0 r) (taken s) = true)
    (hr : (repliesAt .spt (taken s)).length < 12) (ha : admits r (taken s) = true) :
    Meets s fun u => AtIdle (msgOf 0 r) u ∧ HasRoom .spt u ∧ Spells (msgOf 0 r) r ∧ refusalOf 0 r u = none ∧
      selectGrant 0 r u = some 0 := by
  simp only [admits, Bool.and_eq_true, beq_iff_eq, Option.isNone_iff_eq_none] at ha
  exact meets h0 ⟨atIdle hi, hr, ha.1.1, ha.1.2, ha.2⟩

/-- Each of the six single requests is admitted somewhere, the last at the end of its window. -/
theorem witness_SingleRequestsArePlaced :
    ([.itemRead 5 0xFFFF, .faultRead 5, .windowRead 5 0 1808 240] : List Request).all (fun r =>
      idleFor (msgOf 0 r) (taken base) && admits r (taken base) && (singleMessage r (taken base)).isSome) = true ∧
    ([.faultClear 5, .routine 5 0xFFFF (List.replicate 238 1), .windowWrite 5 0 1816 (List.replicate 232 1)] :
      List Request).all (fun r =>
      idleFor (msgOf 0 r) (taken attended) && admits r (taken attended) &&
        (singleMessage r (taken attended)).isSome) = true := by decide +kernel

theorem witness_SingleRequestsArePlaced_premises :
    Meets base fun u => AtIdle (msgOf 0 (.itemRead 5 0x1201)) u ∧ HasRoom .spt u ∧
      Spells (msgOf 0 (.itemRead 5 0x1201)) (.itemRead 5 0x1201) ∧ refusalOf 0 (.itemRead 5 0x1201) u = none ∧
      selectGrant 0 (.itemRead 5 0x1201) u = some 0 :=
  admitted_idle rfl (by decide +kernel) (by decide +kernel) (by decide +kernel)

def chanIs (x : Channel) : State := setChan 1 x base
def someReq : ActiveReq := { buf := .x, kind := .itemRead, clamped := false, place := .unit 5 }

theorem witness_ChannelOpenOpens :
    (Meets base fun u => (chanAt 1 u).state = .closed ∧ (chanAt 1 u).active = none ∧ (chanAt 1 u).binding = none ∧
      parseRequest (rowBody .channelOpen (msgOf 1 .channelOpen)) = some .channelOpen ∧ u.monitor.freeze = none ∧
      (repliesAt .spt u).length < 12 ∧ (grantAt 0 u).state = .active ∧ (grantAt 0 u).requester = chanPort 1) ∧
    (Meets (chanIs { Channel.initial with active := some someReq }) fun u =>
      (chanAt 1 u).state = .closed ∧ (chanAt 1 u).active ≠ none) ∧
    (Meets (chanIs { Channel.initial with binding := some 0 }) fun u =>
      (chanAt 1 u).state = .closed ∧ (chanAt 1 u).binding ≠ none) ∧
    (Meets (chanIs { idleChan with state := .busy, active := some someReq }) fun u => (chanAt 1 u).state = .busy) ∧
    (Meets (streamOn stream0) fun u => (chanAt 0 u).state = .streaming) ∧
    (Meets base fun u => (chanAt 0 u).state = .idle) ∧
    (Meets (chanIs { Channel.initial with state := .halted }) fun u => (chanAt 1 u).state = .halted) :=
  ⟨meets rfl (by decide +kernel), meets rfl (by decide +kernel), meets rfl (by decide +kernel), meets rfl (by decide +kernel),
    meets rfl (by decide +kernel), meets rfl (by decide +kernel), meets rfl (by decide +kernel)⟩

/-- A streaming holder's channel, and a CLOSED channel with room. -/
theorem witness_ChannelCloseCloses :
    (Meets busyState fun u => (chanAt 0 u).state ≠ .closed ∧ (streamAt 0 u).isSome = true ∧
      canLeave (unitAt 5 u).claim = true ∧
      parseRequest (rowBody .channelClose (msgOf 0 .channelClose)) = some .channelClose) ∧
    (Meets base fun u => (chanAt 1 u).state = .closed ∧ (repliesAt .spt u).length < 12) :=
  ⟨meets rfl (by decide +kernel), meets rfl (by decide +kernel)⟩

/-- A READ job whose first row is at the unit. -/
def job0 : Job where
  kind := .read
  chan := 0
  unit := 5
  map := 0
  window := 0
  grant := 0
  r0 := 0
  c0 := 0
  width := 2
  height := 2
  plan := [⟨0, 0, 2, 0x10000, 2, []⟩, ⟨1, 0, 2, 0x10010, 2, []⟩]
  done := 0
  assembly := []
  issuing := true

def mapping (j : Job) : State := setMap ⟨some j, [], some ⟨5, false⟩⟩ base

def mapRead0 : Request := .mapRead 5 0 0 0 15 15
def mapWrite0 (mask : BitVec 32) : Request := .mapWrite 5 0 15 15 0 0 0 mask [7]

theorem witness_MapRequestsBecomeJobs :
    (idleFor (msgOf 0 mapRead0) (taken base) && admits mapRead0 (taken base)) = true ∧
    mapAt 5 0 (taken base) = some map0 ∧ (taken base).map.active = none ∧ (taken base).map.queue = [] ∧
    (idleFor (msgOf 0 mapRead0) (taken (mapping job0)) && admits mapRead0 (taken (mapping job0))) = true ∧
    mapAt 5 0 (taken (mapping job0)) = some map0 ∧ (taken (mapping job0)).map.active ≠ none ∧
    (idleFor (msgOf 0 (mapWrite0 0)) (taken attended) && admits (mapWrite0 0) (taken attended)) = true ∧
    (planOf (mapWrite0 0) (taken attended)).cost = 1 ∧
    (idleFor (msgOf 0 (mapWrite0 0xFF)) (taken attended) && admits (mapWrite0 0xFF) (taken attended)) = true ∧
    (planOf (mapWrite0 0xFF) (taken attended)).cost = 0 ∧ (repliesAt .spt (taken attended)).length < 12 := by decide +kernel

/-- A FREE claim with counts 0, 50 and 51; the holder's repeat; the holder's change. -/
theorem witness_ModeClaimTakesRepeatsOrChanges :
    [0, 1, 50, 51, 255].all (fun n => idleFor (msgOf 0 (.modeClaim 5 .flash n)) (taken base) &&
      admits (.modeClaim 5 .flash n) (taken base)) = true ∧ (unitAt 5 (taken base)).claim.state = .free ∧
    (idleFor (msgOf 0 (.modeClaim 5 .attended 0)) (taken attended) &&
      admits (.modeClaim 5 .attended 0) (taken attended)) = true ∧
    (unitAt 5 (taken attended)).claim.state = .attended ∧ (repliesAt .spt (taken attended)).length < 12 ∧
    (idleFor (msgOf 0 (.modeClaim 5 .flash 0)) (taken attended) &&
      admits (.modeClaim 5 .flash 0) (taken attended)) = true := by decide +kernel

theorem witness_KeepRestartsTheClaimTimer :
    parseRequest (rowBody .keep (msgOf 0 (.keep 5))) = some (.keep 5) ∧ (unitAt 5 (taken attended)).defn = some def5 ∧
    (busAt def5.bus (taken attended)).state = .active ∧ (unitAt 5 (taken attended)).claim.holder = some 0 ∧
    (unitAt 5 (taken attended)).claim.state = .attended ∧ (unitAt 5 (taken flashing)).claim.state = .flash ∧
    idleFor (msgOf 0 (.keep 5)) (taken attended) = true ∧ streamFor (msgOf 0 (.keep 5)) 0 (taken busyState) = true ∧
    (repliesAt .spt (taken attended)).length < 12 ∧ (busAt def5.bus (busIs .off base)).state = .off ∧
    (busAt def5.bus (busIs .asleep base)).state = .asleep := by decide +kernel

theorem witness_ModeReleaseLeaves :
    (idleFor (msgOf 0 (.modeRelease 5)) (taken attended) = true ∧
      parseRequest (rowBody .modeRelease (msgOf 0 (.modeRelease 5))) = some (.modeRelease 5) ∧
      refusalOf 0 (.modeRelease 5) (taken attended) = none ∧ (unitAt 5 (taken attended)).out = none ∧
      (unitAt 5 (taken attended)).wait = []) ∧
    (idleFor (msgOf 0 (.modeRelease 5)) (taken (withOut fetch flashing)) = true ∧
      refusalOf 0 (.modeRelease 5) (taken (withOut fetch flashing)) = none ∧
      (unitAt 5 (taken (withOut fetch flashing))).out.isSome = true) := by decide +kernel

def openReq : Request := .streamOpen 5 1 .lenient 240 0 65536

/-- On an empty table, context 0; with context 0 bound for another channel, context 1. -/
theorem witness_StreamOpenBindsAContext :
    (idleFor (msgOf 0 openReq) (taken flashing) && admits openReq (taken flashing)) = true ∧
    streamAt 0 (taken flashing) = none ∧ (repliesAt .spt (taken flashing)).length < 12 ∧
    (let s := setUnit 6 (unitAt 5 flashing) (setStream 0 (some { stream0 with unit := 6, chan := 3 }) flashing)
     (idleFor (msgOf 0 openReq) (taken s) && admits openReq (taken s)) = true ∧
     streamAt 1 (taken s) = none ∧ streamAt 0 (taken s) ≠ none) := by decide +kernel

/-! ### Witnesses: blocks and ends of streams -/

/-- The premises of a BLOCK of `n` bytes at the stream `x`. -/
def blockMet (x : Stream) (n : Nat) : Bool :=
  let r : Request := .block (List.replicate n 1)
  let u := taken (streamOn x)
  streamFor (msgOf 0 r) 0 u && decide ((repliesAt .spt u).length < 12) &&
    parseRequest (rowBody .block (msgOf 0 r)) == some r && u.monitor.freeze.isNone && streamAt 0 u == some x

/-- `n` bytes stand in slot B after `c` confirmed bytes. -/
def filled (c n : Nat) : Stream :=
  { stream0 with accepted := c + n, issued := c, confirmed := c, slotB := List.replicate n 1 }

/-- The same with a block of 16 bytes in slot A. -/
def filledBoth (n : Nat) : Stream :=
  { stream0 with accepted := 16 + n, issued := 16, slotA := some inFlight, slotB := List.replicate n 1 }

def ended (how : Concluded) (a : Option SlotA) : Stream :=
  { filledBoth 0 with state := .concluded, concluded := some how, slotA := a, idle := none }

/-- OVERRUN by one byte; NOT_READY by one byte; taken to the last free byte of slot B behind slot A; a slot B that is just full, one
that is passed by one byte and by as many as fit, and one that ends the image; DRAINING; the three concluded states. -/
theorem witness_BlockIsTakenByTheStream :
    (blockMet (filled 48 12) 5 && blockMet (filledBoth 8) 9 && blockMet (filledBoth 8) 8 && blockMet (filled 16 8) 8 &&
      blockMet (filled 16 8) 7 && blockMet (filled 16 8) 9 && blockMet (filled 16 8) 24 && blockMet (filled 16 8) 25 &&
      blockMet (filled 48 12) 4 && blockMet { filledBoth 8 with state := .draining } 1 &&
      blockMet (ended .failed none) 1 && blockMet (ended .aborted none) 1 &&
      blockMet (ended .withdrawn (some inFlight)) 240) = true ∧
    (filled 48 12).total < (filled 48 12).accepted + 5 ∧
    (filledBoth 8).size - (filledBoth 8).slotB.length = 8 ∧
    (filled 16 8).slotB.length + 8 = (filled 16 8).size ∧
    (filled 16 8).slotA = none ∧ 2 * (filled 16 8).size - (filled 16 8).slotB.length = 24 ∧
    (filled 48 12).accepted + 4 = (filled 48 12).total := by decide +kernel

/-- The premises of a request without fields at the stream `x`. -/
def endMet (r : Request) (x : Stream) : Bool :=
  let u := taken (streamOn x)
  streamFor (msgOf 0 r) 0 u && (chanAt 0 u).active.isNone && decide ((repliesAt .spt u).length < 12) &&
    parseRequest (rowBody r.kind (msgOf 0 r)) == some r && streamAt 0 u == some x

theorem witness_StreamEndAndAbort :
    (endMet .streamEnd (filled 64 0) && endMet .streamEnd (filled 16 0) && endMet .streamEnd (filledBoth 8) &&
      endMet .streamEnd (filled 16 8) && endMet .streamEnd (ended .failed none) &&
      endMet .streamEnd (ended .withdrawn (some inFlight)) && endMet .streamAbort (filled 16 8) &&
      endMet .streamAbort (filledBoth 8) && endMet .streamAbort (ended .aborted none) &&
      endMet .streamAbort (ended .aborted (some inFlight))) = true := by decide +kernel

/-! ### Witnesses: the ports -/

/-- SPT.0's reassembly holds `n` bytes of a body of 100. -/
def reassembling (n next : Nat) : State :=
  { base with
    spt := { base.spt with
      link := true, linkTimer := some 900
      reasm := base.spt.reasm.set 0 (some ⟨.x, 100, List.replicate n 1, next, 400⟩) } }

/-- Each clause by the header, length byte and number of data bytes of a frame: not valid (three ways), valid with nothing held,
out of order, the wrong buffer, LAST too short, LAST complete, not LAST though complete, not LAST and too short, added. -/
theorem witness_SegmentsAreReassembled :
    (0x7C5#11 ≠ base.spt.reqId ∧ [0xC0#8].length < 2) ∧
    ((0xC0#8).getLsbD 7 = true ∧ ¬ 1 ≤ (0#8).toNat ∧ ¬ (245#8).toNat ≤ 244 ∧ (244#8).toNat ≤ 244) ∧
    ((0x50#8).getLsbD 7 = false ∧ (1#8) ≠ 0) ∧
    (base.spt.reasm.get 0 = none ∧ ((reassembling 62 1).spt.reasm.get 0).isSome = true) ∧
    ((0x60#8).toNat / 16 % 4 ≠ 1 ∧ (0x50#8).toNat / 16 % 4 = 1 ∧ (0x52#8).getLsbD 1 = true) ∧
    ((0x50#8).getLsbD 6 = true ∧ (0x10#8).getLsbD 6 = false) ∧
    (37 < 100 - 62 ∧ 100 - 62 ≤ 38) ∧ (61 < 62 ∧ 62 < 100 - 0) ∧
    (taken (reassembling 62 1)).spt.reasm = (reassembling 62 1).spt.reasm := by decide +kernel

def lapsing : State :=
  let s := setGrant 2 { payer .spt with lapse := true } base
  { s with spt := { s.spt with link := true, linkTimer := some 1 } }

theorem witness_LinkDownEndsTheSession :
    (Meets base fun u => u.spt.linkTimer = none) ∧
    (Meets lapsing fun u => u.spt.linkTimer ≠ none ∧ (grantAt 2 u).requester = .spt ∧ (grantAt 2 u).lapse = true ∧
      (grantAt 2 u).state ∈ [.active, .suspended, .spent]) ∧
    (Meets lapsing fun u => (grantAt 0 u).lapse = false) :=
  ⟨meets rfl (by decide +kernel), meets rfl (by decide +kernel), meets rfl (by decide +kernel)⟩

/-- SPT's queue holds a reply of `n` payload bytes, of which segment `k` is on the wire. -/
def sendingReply (n : Nat) (k : Option Nat) : State :=
  let s := setReplies .spt [⟨0, .x, 7, .done, false, List.replicate n 1⟩] base
  { s with spt := { s.spt with sending := k, wire := k.map fun _ => ⟨0x7CC, [0xC0]⟩ } }

/-- A reply of 59 payload bytes fits one frame, one of 60 does not. -/
theorem witness_ServiceRepliesAreSent :
    (Meets (sendingReply 60 none) fun u => u.replies.spt.length = 1 ∧ u.spt.sending = none ∧ u.spt.wire = none) ∧
    (Meets (sendingReply 60 (some 0)) fun u => u.spt.sending = some 0 ∧ u.spt.wire ≠ none ∧ 0 + 1 < (3 + 60 + 61) / 62) ∧
    (Meets (sendingReply 59 (some 0)) fun u => u.spt.sending = some 0 ∧ u.spt.wire ≠ none ∧ (3 + 59 + 61) / 62 ≤ 0 + 1) ∧
    (Meets (sendingReply 60 (some 1)) fun u => u.spt.sending = some 1 ∧ (3 + 60 + 61) / 62 ≤ 1 + 1) ∧
    (Meets base fun u => u.replies.spt = [] ∧ u.spt.sending = none ∧ u.spt.wire = none) :=
  ⟨meets rfl (by decide +kernel), meets rfl (by decide +kernel), meets rfl (by decide +kernel), meets rfl (by decide +kernel),
    meets rfl (by decide +kernel)⟩

/-- Faulty by each cause, and good at the ends of the length's range; every command code spells a row. -/
theorem witness_WriteMessageDelivers :
    (Meets base fun _ =>
      (0#8 = 0 ∧ 244 < (245#8).toNat ∧ [1#8].length < (2#8).toNat ∧ (0x80#8).getLsbD 7 = true) ∧
      (¬ (1#8) = 0 ∧ ¬ 244 < (244#8).toNat ∧ ¬ [1#8].length < (1#8).toNat)) ∧
    (parseCommand 0x94 []).isSome = true ∧ (parseCommand 0x7F []).isSome = false ∧
    commandRow env0 [] .freeze = some (.freeze env0) ∧ commandRow env0 [2] (.grantRevoke 3) = some (.grantRevoke env0 3 [2]) :=
  ⟨meets rfl (by decide), by decide, by decide, rfl, rfl⟩

theorem witness_SpiReadsDriveRepliesAndStatus :
    (Meets base fun u => repliesAt .rpt u = []) ∧
    (Meets (withReplies .rpt 1 base) fun u => (repliesAt .rpt u).length = 1 ∧ 5 < 6 + 0 ∧ 6 + 0 ≤ 6) ∧
    (withReplies .svp 1 base).inReset = false ∧ (withReplies .svp 1 base).vrdy = true ∧ base.vrdy = false :=
  ⟨meets rfl (by decide +kernel), meets rfl (by decide +kernel), by decide +kernel, by decide +kernel, by decide +kernel⟩

/-! ### Witnesses: the unit buses and the completion of entries -/

def queued (v : UnitId) (cls entered : Nat) : QEntry :=
  { unit := v, msg := .itemFetch 1, source := some (.channel 0), cls := cls, entered := entered, tag := 4, reqId := 0x205 }

def onUb0 (f : Bus → Bus) (s : State) : State := setBus .ub0 (f (busAt .ub0 s)) s

/-- A long message of unit 5: two segments. -/
def longEntry : QEntry := { queued 5 3 0 with msg := .memoryStore 0x10000 (List.replicate 100 1) false }

def transmitting (q : QEntry) (n : Nat) : State :=
  onUb0 (fun b => { b with queue := [q], tx := some ⟨q, n⟩, wire := some (segmentFrame q.reqId 0 .x (unitMsgBody q.tag q.msg) n) })
    (withOut fetch base)

theorem witness_MessagesAreBegunAndSent :
    (Meets (onUb0 (fun b => { b with queue := [queued 5 3 2, queued 6 2 9, queued 7 2 9] }) base) fun u =>
      (busAt .ub0 u).state = .active ∧ (busAt .ub0 u).tx = none ∧ (busAt .ub0 u).wire = none ∧ (busAt .ub0 u).queue ≠ []) ∧
    (Meets (busIs .asleep base) fun u => (busAt .ub0 u).state ≠ .active) ∧
    (Meets base fun u => (busAt .ub0 u).queue = [] ∧ (busAt .ub0 u).wire = none) ∧
    (Meets (transmitting longEntry 0) fun u => (busAt .ub0 u).wire ≠ none ∧ (busAt .ub0 u).tx = some ⟨longEntry, 0⟩ ∧
      0 + 1 < ((unitMsgBody longEntry.tag longEntry.msg).length + 61) / 62 ∧ longEntry.source ≠ none ∧
      (unitAt longEntry.unit u).defn = some def5) ∧
    (Meets (transmitting longEntry 1) fun u => (busAt .ub0 u).tx = some ⟨longEntry, 1⟩ ∧
      ((unitMsgBody longEntry.tag longEntry.msg).length + 61) / 62 ≤ 1 + 1) ∧
    (Meets (transmitting { queued 5 1 0 with msg := .presence, source := none } 0) fun u =>
      (busAt .ub0 u).tx = some ⟨{ queued 5 1 0 with msg := .presence, source := none }, 0⟩) ∧
    (Meets (onUb0 (fun b => { b with wire := some ⟨0x205, []⟩ }) base) fun u =>
      (busAt .ub0 u).wire ≠ none ∧ (busAt .ub0 u).tx = none ∧ (busAt .ub0 u).errors + 8 ≤ 255) :=
  ⟨meets rfl (by decide +kernel), meets rfl (by decide +kernel), meets rfl (by decide +kernel), meets rfl (by decide +kernel),
    meets rfl (by decide +kernel), meets rfl (by decide +kernel), meets rfl (by decide +kernel)⟩

/-- The error count at `n` with a message in transmission, its unit's claim FLASH. -/
def failing (n : Nat) : State :=
  let s := withClaim (held .flash) (transmitting longEntry 0)
  onUb0 (fun b => { b with errors := n }) s

/-- 247 is the highest count that one failure does not take past 255. -/
theorem witness_TransmitErrorsLeadToBusOff :
    (Meets base fun u => (busAt .ub0 u).wire = none ∧ (busAt .ub0 u).recovery = none) ∧
    (Meets (failing 247) fun u => (busAt .ub0 u).wire ≠ none ∧ (busAt .ub0 u).tx ≠ none ∧ (busAt .ub0 u).errors + 8 ≤ 255) ∧
    (Meets (failing 248) fun u => (busAt .ub0 u).wire ≠ none ∧ (busAt .ub0 u).state = .active ∧
      255 < (busAt .ub0 u).errors + 8 ∧ unitBus 5 u = some .ub0 ∧ (unitAt 5 u).claim.state ≠ .free) ∧
    (Meets (onUb0 (fun b => { b with state := .off, recovery := some 1 }) base) fun u =>
      (busAt .ub0 u).recovery ≠ none ∧ (busAt .ub0 u).state = .off) ∧
    (Meets (onUb0 (fun b => { b with state := .asleep, errors := 248, wire := some ⟨0x205, []⟩ }) base) fun u =>
      (busAt .ub0 u).wire ≠ none ∧ (busAt .ub0 u).state ≠ .active ∧ 255 < (busAt .ub0 u).errors + 8) :=
  ⟨meets rfl (by decide +kernel), meets rfl (by decide +kernel), meets rfl (by decide +kernel), meets rfl (by decide +kernel), meets rfl (by decide +kernel)⟩

/-- Unit 5's reply reassembly holds `n` bytes of `length`, and its reply is awaited. -/
def awaiting (waits : Nat) : State :=
  setUnit 5 { unitAt 5 (withOut fetch base) with
    awaited := some { tag := 4, msg := .itemFetch 0x1201, waits := waits, timer := 150 }
    reasm := some ⟨66, List.replicate 62 1, 1⟩ } (withOut fetch base)

/-- A frame of another identifier; a start; a segment out of turn; one that overflows, one that is added, one that completes with
its pad bytes dropped. -/
theorem witness_UnitRepliesAreReassembled :
    (Meets (awaiting 0) fun u => (busAt .ub0 u).state = .active ∧ (unitAt 5 u).defn = some def5 ∧ def5.bus = .ub0 ∧
      def5.repId = 0x285 ∧ (∀ w, w < 5 → (unitAt w u).defn = none) ∧ (unitAt 5 u).reasm = some ⟨66, List.replicate 62 1, 1⟩) ∧
    (Meets (busIs .off base) fun u => (busAt .ub0 u).state ≠ .active) ∧
    (((0x80#8).getLsbD 7 = true ∧ (0x60#8).toNat / 16 % 4 ≠ 1 ∧ (0x50#8).toNat / 16 % 4 = 1) ∧
      (66 < 62 + 5 ∧ 62 + 3 ≤ 66 ∧ 62 + 4 = 66 ∧ canFdLength (2 + 4) = 6 ∧ canFdLength (2 + 7) = 12)) :=
  ⟨meets rfl (by decide +kernel), meets rfl (by decide +kernel), by decide⟩

theorem witness_MatchedRepliesCompleteEntries :
    (unitAt 5 base).awaited = none ∧ [0x01#8, 0x04, 0x00].length < 4 ∧
    (unitAt 5 (awaiting 7)).awaited = some { tag := 4, msg := .itemFetch 0x1201, waits := 7, timer := 150 } ∧
    ((0xF4#8).toNat % 16 = (4#4).toNat ∧ (2#8).toNat = [1#8, 2].length ∧ [1#8, 2].length ≤ 240) ∧
    (7 < 8 ∧ 8 ≤ 8) ∧ ((5#8).toNat % 16 ≠ (4#4).toNat ∧ (4#8) ≠ 1 ∧ (4#8) ≠ 2 ∧ (4#8) ≠ 3) ∧
    (taken (awaiting 0)).inReset = false ∧ (unitAt 5 (taken (awaiting 0))).awaited ≠ none ∧
    (unitAt 5 (taken base)).awaited = none := by decide +kernel

/-- Unit 5 with outstanding entry `e` and claim `cl`. -/
def completing (e : Entry) (cl : Claim) : State := withOut e (withClaim cl base)

def enter (mode : Mode) : Entry := { fetch with msg := .modeEnter mode, keep := 2000 }
def entering (prior : Option Mode) : Claim := { held .entering with target := some .flash, prior := prior }
def leaving (pending : Bool) : Claim :=
  { held .leaving with left := some .flash, reason := some .released, releasePending := pending }

theorem witness_EntriesCompleteToTheirSources :
    ((unitAt 5 (completing fetch (held .attended))).out = some fetch ∧ fetch.source = .channel 0) ∧
    ((unitAt 5 (completing (enter .flash) (entering none))).out = some (enter .flash) ∧
      (unitAt 5 (completing (enter .flash) (entering none))).claim.state = .entering ∧
      (unitAt 5 (completing (enter .flash) (entering none))).claim.target = some .flash ∧
      (unitAt 5 (completing (enter .flash) (entering none))).claim.prior = none ∧
      (unitAt 5 (completing (enter .flash) (entering (some .attended)))).claim.prior = some .attended) ∧
    ((unitAt 5 (completing (enter .flash) (leaving false))).claim.state ≠ .entering) ∧
    ([Source.stream 0 0, .mapRow 0].all fun src =>
      (unitAt 5 (completing { fetch with source := src } (held .flash))).out == some { fetch with source := src }) = true ∧
    ((unitAt 5 (completing baseEntry (leaving true))).out = some baseEntry ∧ baseEntry.source = .base ∧
      (unitAt 5 (completing baseEntry (leaving true))).claim.state = .leaving ∧
      (unitAt 5 (completing baseEntry (leaving true))).claim.reason = some .released ∧
      (unitAt 5 (completing baseEntry (leaving true))).claim.releasePending = true ∧
      (unitAt 5 (completing baseEntry (leaving true))).claim.holder = some 0 ∧
      (unitAt 5 (completing baseEntry (leaving false))).claim.releasePending = false) ∧
    ((chanAt 0 base).active = none ∧
      (chanAt 1 (chanIs { idleChan with state := .busy, active := some someReq })).active = some someReq ∧
      (chanAt 1 (chanIs { Channel.initial with state := .halted, active := some someReq })).state = .halted ∧
      (repliesAt .spt (chanIs { idleChan with state := .busy, active := some someReq })).length < 12) := by decide +kernel

/-- The premises of `blockDone` at the stream `x`. -/
def doneMet (x : Stream) : Bool := streamAt 0 (streamOn x) == some x && x.slotA == some inFlight

theorem witness_BlocksAndRowsComplete :
    (doneMet (filledBoth 15) && doneMet (filledBoth 16) && doneMet { filledBoth 8 with state := .draining } &&
      doneMet { filledBoth 0 with state := .draining, endPending := some .streamEnd } &&
      doneMet (ended .failed (some inFlight)) &&
      doneMet { filledBoth 8 with state := .draining, endPending := some .streamEnd } &&
      doneMet { ended .failed (some inFlight) with endPending := some .streamEnd } &&
      doneMet { ended .aborted (some inFlight) with endPending := some .streamAbort }) = true ∧
    ((filledBoth 15).slotB.length < (filledBoth 15).size ∧ (filledBoth 15).accepted < (filledBoth 15).total ∧
      (filledBoth 16).slotB.length = (filledBoth 16).size ∧ (filledBoth 15).endPending = none) ∧
    (setMap ⟨none, [], some ⟨5, true⟩⟩ base).map.slot = some ⟨5, true⟩ ∧
    (mapping job0).map.slot = some ⟨5, false⟩ ∧ (mapping job0).map.active = some job0 ∧
    job0.done + 1 ≠ job0.plan.length ∧ { job0 with done := 1 }.done + 1 = job0.plan.length ∧
    Status.withdrawn ≠ .done := by decide +kernel

/-! ### Witnesses: internal steps, timers, grants' ends, samples and lines -/

/-- A job that has not been issued. -/
def jobState (kind : JobKind) (cl : Claim) : State :=
  withClaim cl (setMap ⟨some { job0 with kind := kind, issuing := false }, [], none⟩ base)

def stagedChan : Channel := { idleChan with state := .busy, bufX := some fetchBody, staged := some .x, expect := .y }
def clearing : Channel := { Channel.initial with state := .halted, clearPending := true }

theorem witness_InternalStepsAreTaken :
    (let s := setUnit 5 { unitAt 5 base with wait := [fetch] } base
     s.inReset = false ∧ (unitAt 5 s).defn = some def5 ∧ (unitAt 5 s).out = none ∧ (unitAt 5 s).wait = [fetch]) ∧
    ((unitAt 5 (withOut fetch base)).out ≠ none ∧ (unitAt 5 base).wait = []) ∧
    (let s := streamOn { filled 64 0 with release := true }
     streamAt 0 s = some { filled 64 0 with release := true } ∧ (filled 64 0).slotA = none) ∧
    (streamAt 0 base = none) ∧
    ((jobState .read (held .flash)).map.active = some { job0 with issuing := false } ∧
      (jobState .read (held .flash)).map.slot = none ∧ job0.plan[job0.done]? = some ⟨0, 0, 2, 0x10000, 2, []⟩ ∧
      reservedByOther 0 (held .flash) = false ∧ reservedByOther 0 { held .flash with holder := some 1 } = true ∧
      holdsClaim 0 (held .flash) = true ∧ holdsClaim 0 Claim.free = false ∧ reservedByOther 0 Claim.free = false) ∧
    (base.map.active = none ∧ (mapping job0).map.slot ≠ none) ∧
    ((∀ v, (unitAt v (chanIs stagedChan)).out = none → (unitAt v (chanIs stagedChan)).wait = []) ∧
      (chanAt 1 (chanIs stagedChan)).state = .busy ∧ (chanAt 1 (chanIs stagedChan)).active = none ∧
      (chanAt 1 (chanIs stagedChan)).staged = some .x ∧ bufferAt .x (chanAt 1 (chanIs stagedChan)) = some fetchBody) ∧
    ((chanAt 1 (chanIs clearing)).state = .halted ∧ (chanAt 1 (chanIs clearing)).clearPending = true ∧
      (chanAt 1 (chanIs clearing)).active = none ∧ (chanAt 1 (chanIs clearing)).binding = none ∧
      (chanAt 1 base).clearPending = false ∧ (chanAt 1 base).staged = none) := by decide +kernel

def presenceQueued : State :=
  onUb0 (fun b => { b with queue := [{ queued 5 1 0 with msg := .presence, source := none }] }) attended

theorem witness_ClaimPresenceAndIdleTimers :
    (Meets base fun u => (unitAt 5 u).claimTimer = none ∧ (unitAt 5 u).presence = none ∧ streamAt 0 u = none) ∧
    (Meets attended fun u => (unitAt 5 u).claimTimer ≠ none ∧ (unitAt 5 u).claim.state = .attended ∧
      (unitAt 5 u).presence ≠ none ∧ (unitAt 5 u).defn = some def5 ∧ (busAt .ub0 u).queue = []) ∧
    (Meets flashing fun u => (unitAt 5 u).claimTimer ≠ none ∧ (unitAt 5 u).claim.state = .flash) ∧
    (Meets (withClaim (leaving false) base) fun u => (unitAt 5 u).presence ≠ none ∧ (unitAt 5 u).claim.state = .leaving) ∧
    (Meets presenceQueued fun u => (unitAt 5 u).presence ≠ none ∧
      (busAt .ub0 u).queue.any (fun q => q.unit == 5 && q.source == none) = true) ∧
    (Meets (streamOn (filled 16 8)) fun u => streamAt 0 u = some (filled 16 8) ∧ (filled 16 8).idle ≠ none ∧
      (filled 16 8).policy = .strict ∧ (filled 16 8).state = .filling ∧ (filled 16 8).endPending = none) ∧
    (Meets (streamOn { stream0 with policy := .lenient }) fun u => streamAt 0 u = some { stream0 with policy := .lenient }) ∧
    (Meets (streamOn (ended .failed none)) fun u => streamAt 0 u = some (ended .failed none) ∧ (ended .failed none).idle = none) :=
  ⟨meets rfl (by decide +kernel), meets rfl (by decide +kernel), meets rfl (by decide +kernel), meets rfl (by decide +kernel),
    meets rfl (by decide +kernel), meets rfl (by decide +kernel), meets rfl (by decide +kernel), meets rfl (by decide +kernel)⟩

/-- The end of grant 0 reaches unit 5's FLASH claim, which has an entry outstanding; the end of grant 1 does not, nor grant 0's a
claim that is LEAVING. -/
theorem witness_GrantEndsVacateTheSlot :
    (Meets (setGrant 0 { payer .spt with expiry := 1 } busyState) fun u =>
      (grantAt 0 u).state ≠ .vacant ∧ (grantAt 0 u).expiry ≠ 0 ∧ (0#8).toNat = (0 : Slot).val) ∧
    (Meets base fun u => (grantAt 0 u).expiry = 0 ∧ (grantAt 31 u).state = .vacant ∧ (31#8).toNat = (31 : Slot).val ∧
      32 ≤ (32#8).toNat) ∧
    (Meets (completing fetch (held .flash)) fun u => (grantAt 0 u).state ≠ .vacant ∧ (unitAt 5 u).claim.grant = some 0 ∧
      (unitAt 5 u).claim.state = .flash ∧ (unitAt 5 u).claim.holder = some 0 ∧ (unitAt 5 u).out ≠ none ∧
      (grantAt 1 u).state ≠ .vacant) ∧
    (Meets (completing fetch (leaving false)) fun u => (unitAt 5 u).claim.grant = some 0 ∧
      canLeave (unitAt 5 u).claim = false) :=
  ⟨meets rfl (by decide +kernel), meets rfl (by decide +kernel), meets rfl (by decide +kernel), meets rfl (by decide +kernel)⟩

/-- Unit 5 after a revoke of its claim's grant: a read outstanding, a FAULT ERASE and a read of the holder waiting. -/
def afterRevoke (race : List Nat) : Option UnitMsg × List UnitMsg × ClaimState :=
  match exec (.grantRevoke env0 0 race)
      (setUnit 5 { unitAt 5 (completing fetch (held .flash)) with wait := [{ fetch with msg := .faultErase }, fetch] }
        (completing fetch (held .flash))) with
  | .next t => ((unitAt 5 t).out.map (·.msg), (unitAt 5 t).wait.map (·.msg), (unitAt 5 t).claim.state)
  | _ => (none, [], .free)

/-- The end of the claim's grant reaches the waiting requests first: they stay (R17, log 33). -/
theorem test_grant_end_spares_requests :
    afterRevoke [] = (some (.itemFetch 0x1201), [.modeBase, .faultErase, .itemFetch 0x1201], .leaving) := by decide +kernel

/-- The claim's departure comes first: the holder's waiting FAULT ERASE ends, its waiting read stays (R64, log 33). -/
theorem test_grant_end_departure_first :
    afterRevoke [21] = (some (.itemFetch 0x1201), [.modeBase, .itemFetch 0x1201], .leaving) := by decide +kernel

/-- A freeze that stops counting; a level counter that is one step below its top, with a level of one. -/
theorem witness_SampleAddsLevels :
    (Meets (withFreeze base) fun u => u.monitor.freeze ≠ none ∧ u.monitor.countWhileFrozen = false) ∧
    (Meets { streamOn stream0 with
        monitor := { base.monitor with
          counters := base.monitor.counters.set 0 0xFFFFFFFF
          setups := base.monitor.setups.set 0 { Setup.initial with enable := true, event := .channelsBusy, escalate := true } } }
      fun u => u.monitor.freeze = none ∧ levelHeld (u.monitor.setups.get 0) u = some 1 ∧
        4294967296 ≤ (u.monitor.counters.get 0).toNat + 1) :=
  ⟨meets rfl (by decide +kernel), meets rfl (by decide +kernel)⟩

/-- The filter timer of a line runs to a raw level. -/
def filtering (l : Line) (level : Bool) (s : State) : State :=
  { s with raw := s.raw.set l level, filterTimers := s.filterTimers.set l (some 1) }

theorem witness_LinesAreFilteredAndIgnitionSleeps :
    { base with inReset := true }.inReset = true ∧
    (Meets base fun u => u.raw.get .move = false ∧ u.filterTimers.get .move = none) ∧
    (Meets (filtering .ign false busyState) fun u => u.filterTimers.get .ign ≠ none ∧ u.raw.get .ign = false ∧
      u.filtered.get .ign = true ∧ (busAt .ub0 u).state = .active ∧ unitBus 5 u = some .ub0 ∧
      (unitAt 5 u).claim.state ≠ .free) ∧
    (Meets (filtering .ign false (busIs .off base)) fun u => (busAt .ub0 u).state = .off) ∧
    (Meets (filtering .ign true (busIs .asleep (withLines ⟨false, false, false⟩ base))) fun u =>
      u.filterTimers.get .ign ≠ none ∧ u.raw.get .ign = true ∧ u.filtered.get .ign = false) ∧
    (Meets (filtering .move false (withLines ⟨true, false, true⟩ base)) fun u =>
      u.filterTimers.get .move ≠ none ∧ u.raw.get .move = false ∧ u.filtered.get .move = true) :=
  ⟨rfl, meets rfl (by decide +kernel), meets rfl (by decide +kernel), meets rfl (by decide +kernel),
    meets rfl (by decide +kernel), meets rfl (by decide +kernel)⟩

theorem witness_RisesOfMoveAndRunEndWork :
    (Meets (filtering .move true busyState) fun u => u.filterTimers.get .move ≠ none ∧ u.raw.get .move = true ∧
      u.filtered.get .move = false ∧ Line.move ≠ .ign ∧ flashBound (unitAt 5 u).claim = true) ∧
    (Meets (filtering .run true busyState) fun u => u.filterTimers.get .run ≠ none ∧ u.raw.get .run = true ∧
      u.filtered.get .run = false ∧ Line.run ≠ .ign) :=
  ⟨meets rfl (by decide +kernel), meets rfl (by decide +kernel)⟩

/-! ### Witnesses: supervisor commands -/

def goodGrant (slot : Byte) : GrantArgs :=
  ⟨slot, 1, 15, 15, 255, 0, 0xFFFF, 0, 0xFFFF, 0xAA, 1048575, 60, 1, 1⟩

def goodGrantArgs (a : GrantArgs) : Bool :=
  (a.slot.toNat < 32 || a.slot == 0xFF#8) && 1 ≤ a.requester.toNat && a.requester.toNat ≤ 3 && a.unitValue.toNat ≤ 15 &&
    a.unitMask.toNat ≤ 15 && 1 ≤ a.classes.toNat && a.classes.toNat ≤ 255 &&
    (List.range 4).all (fun i => a.rights.toNat / 4 ^ i % 4 != 3) && a.allowance.toNat ≤ 1048575

/-- A named VACANT slot, an occupied one, the lowest VACANT one, a full table, and bad arguments. -/
theorem witness_GrantInstallWritesAGrant :
    (goodGrantArgs (goodGrant 31) && goodGrantArgs (goodGrant 0) && goodGrantArgs (goodGrant 0xFF)) = true ∧
    goodGrantArgs (goodGrant 32) = false ∧ goodGrantArgs { goodGrant 3 with rights := 3 } = false ∧
    goodGrantArgs { goodGrant 3 with allowance := 1048576 } = false ∧
    (Meets base fun u => (grantAt 31 u).state = .vacant ∧ (grantAt 0 u).state ≠ .vacant ∧ (grantAt 2 u).state = .vacant ∧
      ∀ h : Slot, h < 2 → (grantAt h u).state ≠ .vacant) ∧
    (Meets { base with grants := Vector.replicate 32 (payer .spt) } fun u => ∀ g, (grantAt g u).state ≠ .vacant) :=
  ⟨by decide +kernel, by decide +kernel, by decide +kernel, by decide +kernel, meets rfl (by decide +kernel),
    meets rfl (by decide +kernel)⟩

theorem witness_GrantsAreSuspendedResumedRechargedQueried :
    (Meets base fun u => (grantAt 31 u).state = .vacant ∧ (31#8).toNat = (31 : Slot).val ∧ 32 ≤ (32#8).toNat ∧
      (32#8) ≠ 0xFF#8 ∧ 32 ≤ (0xFF#8).toNat ∧ 1048575 < (1048576#32).toNat ∧ (1048575#32).toNat ≤ 1048575 ∧
      (grantAt 0 u).state = .active ∧ (grantAt 0 u).allowance = 0) ∧
    (Meets (paying .armed 1) fun u => (grantAt 0 u).state = .armed) ∧
    (Meets (paying .suspended 1) fun u => (grantAt 0 u).state = .suspended ∧ (grantAt 0 u).counter ≠ 0) ∧
    (Meets (paying .suspended 0) fun u => (grantAt 0 u).state = .suspended ∧
      ¬ ((grantAt 0 u).allowance = 0 ∨ (grantAt 0 u).counter ≠ 0)) ∧
    (Meets (paying .spent 0) fun u => (grantAt 0 u).state = .spent) :=
  ⟨meets rfl (by decide +kernel), meets rfl (by decide +kernel), meets rfl (by decide +kernel), meets rfl (by decide +kernel),
    meets rfl (by decide +kernel)⟩

/-- Good arguments at the ends of their ranges: unit 15 on UB1, a window of 256 granules, a map up to the window's last byte. -/
def goodUnit : UnitArgs where
  unit := 15
  bus := 1
  reqId := 0x7FF
  repId := 0
  timeout := 2000
  windowsPresent := 1
  mapsPresent := 1
  windows := Vector.replicate 4 ⟨0xFFFF, 0, 256, 3⟩
  maps := Vector.replicate 4 ⟨0, 4, 64, 64, 49152, 256⟩

theorem witness_UnitsAndClaimsAreCommanded :
    (Meets base fun u => defineArgsOk 15 .ub1 goodUnit u = true ∧ unitHasWork 15 u = false ∧ unitHasWork 5 u = false ∧
      defineArgsOk 15 .ub1 { goodUnit with timeout := 15 } u = false ∧
      defineArgsOk 15 .ub0 { goodUnit with reqId := 0x285 } u = false ∧
      defineArgsOk 15 .ub1 { goodUnit with maps := Vector.replicate 4 ⟨4, 4, 64, 64, 49152, 256⟩ } u = false ∧
      defineArgsOk 15 .ub1 { goodUnit with maps := Vector.replicate 4 ⟨4, 4, 64, 64, 49152, 256⟩, mapsPresent := 0xF0 } u =
        true ∧ (unitAt 5 u).claim.state = .free) ∧
    (Meets attended fun u => unitHasWork 5 u = true ∧ canLeave (unitAt 5 u).claim = true ∧
      (unitAt 5 u).claim.state = .attended) ∧
    (Meets flashing fun u => (unitAt 5 u).claim.state = .flash) ∧
    (Meets (completing (enter .flash) (entering none)) fun u =>
      (unitAt 5 u).claim.state = .entering ∧ canLeave (unitAt 5 u).claim = true) ∧
    (Meets (withClaim (leaving false) base) fun u => (unitAt 5 u).claim.state = .leaving) ∧
    (16 ≤ (16#8).toNat ∧ 2 ≤ (2#8).toNat ∧ (15#8).toNat = (15 : UnitId).val ∧ (5#8).toNat = (5 : UnitId).val) :=
  ⟨meets rfl (by decide +kernel), meets rfl (by decide +kernel), meets rfl (by decide +kernel), meets rfl (by decide +kernel),
    meets rfl (by decide +kernel), by decide⟩

theorem witness_ChannelsAreHaltedAndCleared :
    (Meets base fun u => (chanAt 1 u).state = .closed ∧ (chanAt 0 u).state ≠ .closed ∧ (chanAt 0 u).state ≠ .halted) ∧
    (Meets (chanIs { Channel.initial with state := .halted }) fun u =>
      (chanAt 1 u).state = .halted ∧ (chanAt 1 u).clearPending = false) ∧
    (Meets (chanIs { clearing with active := some someReq }) fun u =>
      (chanAt 1 u).state = .halted ∧ (chanAt 1 u).clearPending = true) ∧
    ((0#8) = 0 ∧ 4 ≤ (4#8).toNat ∧ 1 ≤ (1#8).toNat ∧ (3#8).toNat < 4 ∧
      (11 : ChanId).val = 4 * ((3#8).toNat - 1) + (3#8).toNat ∧ (0 : ChanId).val = 4 * ((1#8).toNat - 1) + (0#8).toNat) :=
  ⟨meets rfl (by decide +kernel), meets rfl (by decide +kernel), meets rfl (by decide +kernel), by decide⟩

/-- The setup's range ends: the events 01h, 0Dh, 11h and 14h are good, 0Eh, 10h and 15h are not. -/
theorem witness_MonitorCommandsWriteTheMonitor :
    (Meets base fun _ =>
      ([0x01#8, 0x0D, 0x11, 0x14].all fun e => 1 ≤ e.toNat && e.toNat ≤ 0x14 && !(0x0E ≤ e.toNat && e.toNat ≤ 0x10)) = true ∧
      ([0x00#8, 0x0E, 0x10, 0x15].all fun e => !(1 ≤ e.toNat && e.toNat ≤ 0x14 && !(0x0E ≤ e.toNat && e.toNat ≤ 0x10))) =
        true ∧
      (7#8).toNat = (7 : Fin 8).val ∧ 8 ≤ (8#8).toNat ∧ (8#8) ≠ 0xFF#8 ∧ (1#8) ≠ 0) :=
  meets rfl (by decide)

theorem witness_PortSetupStoresTheIdentifiers :
    (Meets base fun u => u.spt.link = false ∧ 0x7FF < (0x800#16).toNat ∧ ¬ 0x7FF < (0x7FF#16).toNat ∧ (0x7FF#16) ≠ 0) ∧
    (Meets lapsing fun u => u.spt.link = true) :=
  ⟨meets rfl (by decide +kernel), meets rfl (by decide +kernel)⟩

theorem witness_GatewayResetAndStatusRead :
    Meets busyState fun u => MapPlaces u.map ∧ streamAt 0 u ≠ none ∧ (busAt .ub0 u).state ≠ .off :=
  meets rfl ⟨by unfold MapPlaces; decide +kernel, by decide +kernel⟩

/-! ### The manual's worked cases (2.12, 5.8) -/

/-- Unit 5 of 2.12: windows 0 and 1, maps 2 and 3. -/
def caseDef : UnitDef where
  bus := .ub0
  reqId := 0x205
  repId := 0x285
  timeout := 200
  windows := #v[some ⟨2000, .g4096, 4, false, true⟩, some ⟨784, .g256, 8, false, false⟩, none, none]
  maps := #v[none, none, some ⟨1, 1024, 2, 16, 12, 40⟩, some ⟨0, 0, 4, 64, 64, 256⟩]

def case : State := setUnit 5 { UnitRec.initial with defn := some caseDef } base

theorem test_window_bounds :
    rangeStage (.windowRead 5 1 1900 200) case = some .outOfWindow ∧
    rangeStage (.windowRead 5 1 1848 200) case = none ∧ windowByte 5 1 1848 case = 202552 ∧
    rangeStage (.windowRead 5 1 0 241) case = some .badLength ∧
    rangeStage (.windowRead 5 2 0 16) case = some .outOfWindow := by decide +kernel

theorem test_map_read_clipped :
    let p := planOf (.mapRead 5 2 10 12 7 4) case
    (p.cost, p.clamped, p.width, p.height, p.rows.map fun r => (r.addr, r.len)) =
      (2, true, 4, 2, [(202152, 8), (202192, 8)]) := by decide +kernel

theorem test_map_read_limited :
    let p := planOf (.mapRead 5 3 0 0 63 3) case
    (p.cost, p.clamped, p.width, p.height, p.rows.map fun r => (r.addr, r.len)) =
      (1, true, 60, 1, [(8192000, 240)]) := by decide +kernel

def caseCells : List Byte :=
  [0x34, 0x12, 0xFF, 0xFF, 0xFF, 0xFF, 0x56, 0x04, 0x57, 0x04, 0xFF, 0xFF, 0x10, 0x00, 0xFF, 0xFF]

theorem test_map_write_runs :
    [(0xFFFF#32, 0#32), (0xFF00#32, 0xFF#32)].map (fun k =>
      (planOf (.mapWrite 5 2 3 0 7 0 k.1 k.2 caseCells) case).rows.map fun r => (r.addr, r.len)) =
      [[(201848, 2), (201854, 4), (201860, 2)], [(201848, 2), (201854, 4), (201860, 2)]] := by decide +kernel

theorem test_stream_cost :
    (planOf (.streamOpen 5 0 .strict 240 0 16384) case).cost = 69 ∧
    rangeStage (.streamOpen 5 0 .strict 128 4096 12289) case = some .badArgument ∧
    rangeStage (.streamOpen 5 0 .strict 8 0 1000) case = some .badArgument ∧
    rangeStage (.streamOpen 5 1 .strict 16 0 16) case = some .badArgument := by decide +kernel

theorem test_masked_match :
    (List.range 16).filter (fun v => maskedMatch (BitVec.ofNat 4 v) 8#4 6#4) = [8, 10, 12, 14] := by decide

/-- The stream of 5.8 at a row of its table: accepted, issued, confirmed, slot A's offset and size, slot B's fill. -/
def caseStream (acc iss conf : Nat) (a : Option (Nat × Nat)) (b : Nat) : State :=
  setChan 0 { idleChan with state := .streaming, binding := some 0 }
    (setStream 0 (some { stream0 with
      window := 0, total := 1000, size := 240, accepted := acc, issued := iss, confirmed := conf
      slotA := a.map fun o => ⟨o.1, List.replicate o.2 1⟩, slotB := List.replicate b 1 })
      (withClaim (held .flash) case))

/-- What the table shows of context 0: accepted, issued, confirmed, slot A's offset and size, slot B's fill. -/
def counts (s : State) : List Nat :=
  match streamAt 0 s with
  | none => []
  | some x =>
    [x.accepted, x.issued, x.confirmed] ++
      (match x.slotA with
        | none => [0, 0]
        | some a => [a.offset, a.bytes.length]) ++ [x.slotB.length]

/-- The counts after a step, and the status and payload of the last reply. -/
def seen (o : Host.Outcome State Fault Refusal) : List Nat × List Byte :=
  match o with
  | .next t =>
    (counts t, match (repliesAt .spt t).getLast? with
      | none => []
      | some r => statusCode r.status :: r.payload)
  | _ => ([], [])

def blockOf (n : Nat) : Instr := .block (msgOf 0 (.block (List.replicate n 1)))

/-- Rows 2, 3, 4, 6, 7 and 12 of the table, one step each. -/
theorem test_stream_blocks :
    [seen (exec (blockOf 200) (caseStream 0 0 0 none 0)),
     seen (exec (blockOf 200) (caseStream 200 0 0 none 200)),
     seen (exec (blockOf 200) (caseStream 400 240 0 (some (0, 240)) 160)),
     seen (exec (blockOf 200) (caseStream 400 240 240 none 160)),
     seen (exec (blockOf 120) (caseStream 600 480 240 (some (240, 240)) 120)),
     seen (exec (blockOf 40) (caseStream 960 960 720 (some (720, 240)) 0))] =
    [([200, 0, 0, 0, 0, 200], 0x00 :: leBytes 4 200),
     ([400, 240, 0, 0, 240, 160], 0x00 :: leBytes 4 400),
     ([400, 240, 0, 0, 240, 160], 0x12 :: leBytes 4 400),
     ([600, 480, 240, 240, 240, 120], 0x00 :: leBytes 4 600),
     ([720, 480, 240, 240, 240, 240], 0x00 :: leBytes 4 720),
     ([1000, 960, 720, 720, 240, 40], 0x00 :: leBytes 4 1000)] := by decide +kernel

/-- Rows 5, 8 and 14: slot A completes POSITIVE. -/
theorem test_stream_completions :
    [counts (blockDone 0 (.positive []) (caseStream 400 240 0 (some (0, 240)) 160)),
     counts (blockDone 0 (.positive []) (caseStream 720 480 240 (some (240, 240)) 240)),
     counts (blockDone 0 (.positive []) (caseStream 1000 960 720 (some (720, 240)) 40))] =
    [[400, 240, 240, 0, 0, 160], [720, 720, 480, 480, 240, 0], [1000, 1000, 960, 960, 40, 0]] := by decide +kernel

/-! ### One step each -/

/-- ITEM READ in one SPT frame reaches its unit, which awaits its message on UB0. -/
theorem test_item_read_over_the_service_port :
    (match exec (.validSegment 0x7C4 [0xC0, 0x06, 0x03, 0x05, 0x02, 0x00, 0x01, 0x12]) base with
      | .next t => (t.spt.link, (unitAt 5 t).out.map (·.msg), (busAt .ub0 t).queue.map (·.cls), (chanAt 0 t).state)
      | _ => (false, none, [], .closed)) = (true, some (.itemFetch 0x1201), [3], .busy) := by decide +kernel

/-- FREEZE as an SPI transaction: the record, ALERT and the reply. -/
theorem test_freeze_over_spi :
    (match exec (.writeMessage .svp [0xA1, 0x80, 0x01, 0x94] []) base with
      | .next t => (t.alert, t.trail.records.map (·.detail), (repliesAt .svp t).map fun r => (r.kind, r.status))
      | _ => (false, [], [])) = (true, [.freeze .command], [(0x94, .done)]) := by decide +kernel

/-- A transaction cut before its length byte is answered MALFORMED at the channel of its envelope (log 20). -/
theorem test_cut_write_message :
    (match exec (.writeMessage .rpt [0xA1, 0x06] []) base with
      | .next t => (repliesAt .rpt t).map fun r => (r.chan, r.buf, r.kind, r.status)
      | _ => []) = [(6, .y, 0xFF, .malformed)] := by decide +kernel

/-- The first frame of the oldest entry of the lowest class goes on the wire. -/
theorem test_message_begin :
    (match exec (.messageBegin .ub0)
        (onUb0 (fun b => { b with queue := [queued 5 3 2, queued 6 2 9, queued 7 2 9] }) base) with
      | .next t => (busAt .ub0 t).tx.map (·.entry.unit)
      | _ => none) = some 6 := by decide +kernel

/-- A tick lowers a running timer and raises the clock. -/
theorem test_tick :
    (match step attended with
      | .next t => ((unitAt 5 t).claimTimer, t.trail.clock, t.monitor.sampleTimer)
      | _ => (none, 0, 0)) = (some 699, 1, 99) := by decide +kernel

/-- A command waits its turn: the front of the queue is taken. -/
theorem test_front_is_taken :
    (match step { base with pending := [.freeze env0, .unfreeze env0] } with
      | .next t => (t.pending, t.monitor.freeze)
      | _ => ([], none)) = ([.unfreeze env0], some .command) := by decide +kernel

end Sys2Proof.Tests.Slice0
end

section
/-! Every step keeps what the laws speak of: each row but the four that move a line or restart the part `Keeps` its state,
and a law that `Keeps` carries, that the lines do not enter and that holds at power-on is kept by every step. -/

namespace Sys2Proof.Machine

variable {s t : State}

/-- The rows that move a line or restart the part: the only ones after which lines or work are not as `Keeps` has them. -/
def movesLines : Instr → Bool
  | .powerOn => true
  | .resetNAsserted => true
  | .rawLineChange _ _ => true
  | .filterTimerExpiry _ _ => true
  | _ => false

theorem keeps_arrive (h : Keeps s t) (k : ReqKind) (m : ReqMsg) : Keeps s (arrive k m t) :=
  keeps_deliver h _ _ _

/-- Every row that moves no line and restarts nothing keeps the laws. -/
theorem keeps_exec {c : Instr} (hc : movesLines c = false) (h : exec c s = .next t) : Keeps s t := by
  cases c with
  | powerOn | resetNAsserted | rawLineChange | filterTimerExpiry => cases hc
  | validSegment id frame => exact keeps_running (fun k => keeps_sptFrame k id frame) h
  | gapTimerExpiry i => exact keeps_running (fun k => keeps_gapExpires k i) h
  | linkTimerExpiry race => exact keeps_running (fun k => keeps_linkTimerExpires k race) h
  | sptReplyTransmit => exact keeps_running keeps_transmitReply h
  | sptReplyFrameDone sent => exact keeps_running (fun k => keeps_replyFrameDone k sent) h
  | writeMessage p mosi race => exact keeps_running (fun k => keeps_spiTransaction k p mosi race) h
  | readReply p n => exact keeps_running (fun k => keeps_spiReadReply k p n) h
  | readStatus p n => exact keeps_running (fun k => keeps_spiReadStatus k p n) h
  | channelOpen m | channelClose m | itemRead m | faultRead m | faultClear m | routine m | windowRead m | windowWrite m
  | mapRead m | mapWrite m | modeClaim m | keep m | modeRelease m | streamOpen m | block m | streamEnd m
  | streamAbort m => exact keeps_running (fun k => keeps_arrive k _ m) h
  | messageBegin b => exact keeps_running (fun k => keeps_beginMessage k b) h
  | frameSent b => exact keeps_running (fun k => keeps_frameSent k b) h
  | frameFailed b race => exact keeps_running (fun k => keeps_frameFailed k b race) h
  | recoveryTimerExpiry b => exact keeps_running (fun k => keeps_recoveryExpires k b) h
  | unitReplySegment b id frame => exact keeps_running (fun k => keeps_unitFrame k b id frame) h
  | replyTimerExpiry u => exact keeps_running (fun k => keeps_replyTimerExpires k u) h
  | waitListPromotion u => exact keeps_runningInternal (fun k => keeps_promoteWait k u) h
  | streamContextFreed k => exact keeps_runningInternal (fun hk => keeps_freeStream hk k) h
  | mapJobStart => exact keeps_runningInternal keeps_startJob h
  | stagedRequestPromotion c => exact keeps_runningInternal (fun k => keeps_promoteStagedRow k c) h
  | channelDrained c => exact keeps_runningInternal (fun k => keeps_drainChannel k c) h
  | claimTimerExpiry u => exact keeps_running (fun k => keeps_claimTimerExpires k u) h
  | presenceTimerExpiry u => exact keeps_running (fun k => keeps_presenceExpires k u) h
  | idleTimerExpiry k => exact keeps_running (fun hk => keeps_idleExpires hk k) h
  | grantExpiry g race => exact keeps_running (fun k => keeps_grantExpires k g race) h
  | sampleTimerExpiry => exact keeps_running keeps_sampleExpires h
  | grantInstall env a => exact keeps_running (fun k => keeps_grantInstall k env a) h
  | grantSuspend env slot => exact keeps_running (fun k => keeps_grantSuspend k env slot) h
  | grantResume env slot => exact keeps_running (fun k => keeps_grantResume k env slot) h
  | grantRecharge env slot n => exact keeps_running (fun k => keeps_grantRecharge k env slot n) h
  | grantRevoke env slot race => exact keeps_running (fun k => keeps_grantRevoke k env slot race) h
  | grantQuery env slot => exact keeps_running (fun k => keeps_grantQuery k env slot) h
  | unitDefine env a => exact keeps_running (fun k => keeps_unitDefine k env a) h
  | unitClear env u => exact keeps_running (fun k => keeps_unitClear k env u) h
  | claimEnd env u => exact keeps_running (fun k => keeps_claimEnd k env u) h
  | channelHalt env p i => exact keeps_running (fun k => keeps_channelHalt k env p i) h
  | channelClear env p i => exact keeps_running (fun k => keeps_channelClear k env p i) h
  | monitorSetup env a => exact keeps_running (fun k => keeps_monitorSetup k env a) h
  | monitorSetupGlobal env a b => exact keeps_running (fun k => keeps_monitorSetupGlobal k env a b) h
  | monitorRead env a => exact keeps_running (fun k => keeps_monitorRead k env a) h
  | monitorPreload env a v => exact keeps_running (fun k => keeps_monitorPreload k env a v) h
  | monitorAcknowledge env a g f => exact keeps_running (fun k => keeps_monitorAcknowledge k env a g f) h
  | freeze env => exact keeps_running (fun k => keeps_freezeCommand k env) h
  | unfreeze env => exact keeps_running (fun k => keeps_unfreezeCommand k env) h
  | trailRead env n => exact keeps_running (fun k => keeps_trailRead k env n) h
  | portSetup env a b => exact keeps_running (fun k => keeps_portSetup k env a b) h
  | statusRead env => exact keeps_running (fun k => keeps_statusRead k env) h
  | gatewayReset env => exact keeps_running (fun k => keeps_gatewayReset k env) h

/-- The state a command from outside acts on keeps what its own state meets. -/
theorem keeps_advance_settle (s : State) : Keeps s (advance (settle s)) :=
  keeps_advance (keeps_settle (Keeps.refl s))

/-- An idle millisecond keeps the laws (log 2). -/
theorem keeps_idle (s : State) : Keeps s (idle s) := by
  unfold idle
  split
  · exact Keeps.refl s
  · exact keeps_tick (keeps_settle (Keeps.refl s))

/-- A law of the tables: carried by `Keeps`, met at power-on, and not about the lines, the reset line or the waiting
commands. -/
structure TableLaw (P : State → Prop) : Prop where
  kept : ∀ {s t}, Keeps s t → P s → P t
  powerOn : ∀ raw, P (State.powerOn raw)
  lines : ∀ {s} (inReset raw filtered timers pending), P s →
    P { s with inReset := inReset, raw := raw, filtered := filtered, filterTimers := timers, pending := pending }

/-- A raw line's change touches lines only (R41). -/
theorem TableLaw.rawChange_keeps {P : State → Prop} (law : TableLaw P) (l : Line) (b : Bool) (hs : P s) :
    P (rawChange l b s) := by
  unfold rawChange
  split
  · exact hs
  · exact law.lines s.inReset _ s.filtered _ s.pending hs

/-- A filter timer's expiry moves a line and runs the edge's consequences, which keep the laws (R41 to R44). -/
theorem TableLaw.filterExpires_keeps {P : State → Prop} (law : TableLaw P) (l : Line) (race : List Nat) (hs : P s) :
    P (filterExpires l race s) := by
  have taken : P (takeLevel l (s.raw.get l) s) := law.lines s.inReset s.raw _ _ s.pending hs
  unfold filterExpires
  split
  · exact hs
  · split
    · exact taken
    · exact law.kept (keeps_edge (Keeps.refl _) _ _ _) taken

/-- A law of the tables is kept by every row. -/
theorem TableLaw.exec_keeps {P : State → Prop} (law : TableLaw P) {c : Instr} (hs : P s) (h : exec c s = .next t) : P t := by
  cases hc : movesLines c with
  | false => exact law.kept (keeps_exec hc h) hs
  | true =>
    have settled : P (advance (settle s)) := law.kept (keeps_advance_settle s) hs
    cases c with
    | powerOn => cases h; exact law.lines false s.raw s.raw _ _ (law.powerOn s.raw)
    | resetNAsserted => cases h; exact law.lines true s.raw s.raw _ _ (law.powerOn s.raw)
    | rawLineChange l b =>
      change execRawLineChange l b s = _ at h
      unfold execRawLineChange at h
      split at h
      · cases h; exact law.lines s.inReset _ s.filtered s.filterTimers s.pending hs
      · cases h; exact law.rawChange_keeps l b settled
    | filterTimerExpiry l race =>
      change running (filterExpires l race) s = _ at h
      unfold running at h
      split at h
      · cases h; exact hs
      · cases h; exact law.filterExpires_keeps l race settled
    | _ => cases hc

/-- A law of the tables is kept by every step. -/
theorem TableLaw.step_keeps {P : State → Prop} (law : TableLaw P) (hs : P s) (h : step s = .next t) : P t := by
  unfold step at h
  split at h
  · cases h; exact law.kept (keeps_idle s) hs
  · rename_i rest _
    exact law.exec_keeps (law.lines s.inReset s.raw s.filtered s.filterTimers rest hs) h

/-- R1: that VACANT slots hold the initial values is a law of the tables. -/
theorem tableLaw_vacantClean : TableLaw VacantClean where
  kept h := h.vacant
  powerOn _raw _g _ := Vector.get_replicate ..
  lines _ _ _ _ _ hs := hs

/-- Settles O8: it is a law of the tables. -/
theorem everyStepKeepsVacantSlotsInitial : Obligations.EveryStepKeepsVacantSlotsInitial :=
  fun _ _ hs h => tableLaw_vacantClean.step_keeps hs h

end Sys2Proof.Machine
end

section
/-! R2's masked compare, bit by bit, at the widths the model uses it. -/

namespace Sys2Proof.Machine

/-- The masked compare holds exactly where the two values agree outside the mask (R2). -/
theorem maskedMatch_iff {w : Nat} (v a k : BitVec w) :
    maskedMatch v a k = true ↔ ∀ i, i < w → k.getLsbD i = false → v.getLsbD i = a.getLsbD i := by
  have bit : ∀ i, i < w → (((v ^^^ a) &&& ~~~k).getLsbD i = false ↔ (k.getLsbD i = false → v.getLsbD i = a.getLsbD i)) := by
    intro i hi
    simp only [BitVec.getLsbD_and, BitVec.getLsbD_xor, BitVec.getLsbD_not, hi, decide_true, Bool.true_and]
    cases v.getLsbD i <;> cases a.getLsbD i <;> cases k.getLsbD i <;> decide
  unfold maskedMatch
  rw [beq_iff_eq]
  constructor
  · intro h i hi
    exact (bit i hi).mp (by rw [h]; exact BitVec.getLsbD_zero)
  · intro h
    apply BitVec.eq_of_getLsbD_eq
    intro i hi
    rw [(bit i hi).mpr (h i hi)]
    exact BitVec.getLsbD_zero.symm

/-- A mask of 0 leaves equality (R2). -/
theorem maskedMatch_zero {w : Nat} (v a : BitVec w) : maskedMatch v a 0 = true ↔ v = a := by
  rw [maskedMatch_iff]
  exact ⟨fun h => BitVec.eq_of_getLsbD_eq fun i hi => h i hi BitVec.getLsbD_zero, fun h _ _ _ => h ▸ rfl⟩

/-- A full mask matches all (R2). -/
theorem maskedMatch_allOnes {w : Nat} (v a : BitVec w) : maskedMatch v a (BitVec.allOnes w) = true := by
  rw [maskedMatch_iff]
  intro i hi hk
  rw [BitVec.getLsbD_allOnes, decide_eq_true hi] at hk
  cases hk

/-- The unit compare is over the 4 bits of the unit number (R2). -/
theorem matchesUnit_iff (g : Grant) (v : UnitId) : matchesUnit g v = true ↔
    ∀ i, i < 4 → g.unitMask.getLsbD i = false → v.val.testBit i = g.unitValue.getLsbD i := by
  unfold matchesUnit
  rw [maskedMatch_iff]
  have low : ∀ i, i < 4 → (BitVec.ofNat 4 v.val).getLsbD i = v.val.testBit i := fun i hi => by
    rw [BitVec.getLsbD_ofNat, decide_eq_true hi, Bool.true_and]
  exact ⟨fun h i hi hm => low i hi ▸ h i hi hm, fun h i hi hm => (low i hi).trans (h i hi hm)⟩

/-- Settles O19, bit by bit. -/
theorem maskedCompareIgnoresMaskedBits : Obligations.MaskedCompareIgnoresMaskedBits :=
  ⟨fun _ v a k => ⟨maskedMatch_iff v a k, maskedMatch_zero v a, maskedMatch_allOnes v a⟩, matchesUnit_iff,
    fun g _ id _ _ => ⟨maskedMatch_iff id g.itemValue g.itemMask, maskedMatch_iff id g.routineValue g.routineMask⟩⟩

end Sys2Proof.Machine
end

section
/-! The budget of a grant and what an admission charges, records and reports (R14 to R16, R37, R39, R40, R141). -/

namespace Sys2Proof.Machine

/-! ### The remaining budget -/

/-- An unmetered grant has no remaining budget to report (R14). -/
theorem remaining_unmetered {x : Grant} (h : x.allowance = 0) : remaining x = none := if_pos h

/-- A metered grant whose counter reads 0 has nothing left (R14). -/
theorem remaining_counter_zero {x : Grant} (h : x.allowance ≠ 0) (hc : x.counter = 0) : remaining x = some 0 := by
  unfold remaining; rw [if_neg h, if_pos hc]

/-- A metered grant's remaining budget is what its counter lacks to 1,048,576 (R14). -/
theorem remaining_metered {x : Grant} (h : x.allowance ≠ 0) (hc : x.counter ≠ 0) :
    remaining x = some (1048576 - x.counter.toNat) := by
  unfold remaining; rw [if_neg h, if_neg hc]; rfl

/-- A grant with something left is metered, and its counter lacks exactly that to the overflow. -/
theorem metered_of_remaining {x : Grant} {n : Nat} (h : remaining x = some n) (hn : 1 ≤ n) :
    x.allowance ≠ 0 ∧ x.counter.toNat + n = 1048576 := by
  have hlt := x.counter.isLt
  have ha : x.allowance ≠ 0 := fun e => by rw [remaining_unmetered e] at h; cases h
  have hc : x.counter ≠ 0 := fun e => by rw [remaining_counter_zero ha e] at h; cases h; omega
  rw [remaining_metered ha hc] at h
  cases h
  exact ⟨ha, by omega⟩

/-- An unmetered grant pays any cost (R27). -/
theorem canPay_unmetered {x : Grant} (h : x.allowance = 0) (n : Nat) : canPay x n = true := by
  unfold canPay; rw [remaining_unmetered h]

/-- A metered grant pays what is not above its remaining budget (R27). -/
theorem canPay_of_remaining {x : Grant} {n : Nat} (h : remaining x = some n) (k : Nat) : canPay x k = decide (k ≤ n) := by
  unfold canPay; rw [h]

/-- A counter advanced short of the overflow leaves the rest of the budget (R15). -/
theorem remaining_advanced {x : Grant} {n k : Nat} (ha : x.allowance ≠ 0) (hn : x.counter.toNat + n = 1048576)
    (hk : 1 ≤ k) (hkn : k < n) : remaining { x with counter := x.counter + BitVec.ofNat 20 k } = some (n - k) := by
  have toNat : (x.counter + BitVec.ofNat 20 k).toNat = x.counter.toNat + k := by
    rw [BitVec.toNat_add, BitVec.toNat_ofNat]; omega
  have hc : x.counter + BitVec.ofNat 20 k ≠ 0 := fun e => by
    have := congrArg BitVec.toNat e
    rw [toNat, show (0 : BitVec 20).toNat = 0 from rfl] at this
    omega
  rw [remaining_metered (x := { x with counter := x.counter + BitVec.ofNat 20 k }) ha hc]
  dsimp only
  rw [toNat]
  congr 1
  omega

/-! ### The charge -/

/-- A charge of an unmetered grant, or of 0, changes nothing (R15). -/
theorem charge_none {g : Slot} {cost : Nat} {s : State} (h : (grantAt g s).allowance = 0 ∨ cost = 0) :
    charge g cost s = s := if_pos h

/-- A charge short of the overflow advances the counter (R15). -/
theorem charge_within {g : Slot} {cost : Nat} {s : State} (ha : (grantAt g s).allowance ≠ 0) (hc : 1 ≤ cost)
    (h : (grantAt g s).counter.toNat + cost < 1048576) :
    charge g cost s = setGrant g { grantAt g s with counter := (grantAt g s).counter + BitVec.ofNat 20 cost } s := by
  unfold charge counterLimit
  dsimp only
  rw [if_neg (by rintro (e | e); exacts [ha e, by omega]), if_pos h]

/-- The state with grant `g` SPENT and its counter at 0 (R16). -/
def spentState (g : Slot) (s : State) : State := setGrant g { grantAt g s with counter := 0, state := .spent } s

/-- A charge that reaches the overflow spends the grant and, with escalate, hands it to the monitor (R16). -/
theorem charge_whole {g : Slot} {cost : Nat} {s : State} (ha : (grantAt g s).allowance ≠ 0) (hc : 1 ≤ cost)
    (h : (grantAt g s).counter.toNat + cost = 1048576) :
    charge g cost s =
      if (grantAt g s).escalate then escalateGrant g (spentState g s) else spentState g s := by
  unfold charge counterLimit
  dsimp only
  rw [if_neg (by rintro (e | e); exacts [ha e, by omega]), if_neg (by rw [h]; exact lt_irrefl _)]
  rfl

/-! ### Escalation to the monitor -/

/-- The monitor with grant `g` among the escalated ones (R141). -/
def listGrant (g : Slot) (s : State) : State :=
  { s with monitor := { s.monitor with escalated := s.monitor.escalated ||| BitVec.twoPow 32 g.val } }

/-- A grant already listed is listed once (R141). -/
theorem escalateGrant_listed {g : Slot} {s : State} (h : s.monitor.escalated.getLsbD g.val = true) :
    escalateGrant g s = s := if_pos h

/-- A newly listed grant is a freeze trigger only under FREEZE_ON_GRANT (R141). -/
theorem escalateGrant_new {g : Slot} {s : State} (h : s.monitor.escalated.getLsbD g.val = false) :
    escalateGrant g s = if s.monitor.freezeOnGrant then freezeTrigger (.grant g) (listGrant g s) else listGrant g s := by
  unfold escalateGrant
  rw [if_neg (by rw [h]; exact Bool.false_ne_true)]
  rfl

/-- A trigger taken while the freeze is ON changes nothing (R143). -/
theorem freezeTrigger_on {cause : FreezeCause} {s : State} (h : s.monitor.freeze ≠ none) : freezeTrigger cause s = s := by
  unfold freezeTrigger
  split
  · rfl
  · contradiction

/-- A trigger taken while the freeze is OFF turns it ON with its record (R143). -/
theorem freezeTrigger_off {cause : FreezeCause} {s : State} (h : s.monitor.freeze = none) : freezeTrigger cause s =
    writeRecord none none none none (.freeze cause) { s with monitor := { s.monitor with freeze := some cause } } := by
  unfold freezeTrigger
  rw [h]

/-- A newly listed grant freezes nothing without FREEZE_ON_GRANT, or where the freeze is ON already (R141, R143). -/
theorem escalateGrant_unfrozen {g : Slot} {s : State} (h : s.monitor.escalated.getLsbD g.val = false)
    (hf : s.monitor.freezeOnGrant = false ∨ s.monitor.freeze ≠ none) : escalateGrant g s = listGrant g s := by
  rw [escalateGrant_new h]
  split
  · rename_i hg
    exact freezeTrigger_on (s := listGrant g s) (hf.resolve_left (by rw [hg]; decide))
  · rfl

/-- A newly listed grant turns the freeze ON under FREEZE_ON_GRANT (R141, R143). -/
theorem escalateGrant_freezes {g : Slot} {s : State} (h : s.monitor.escalated.getLsbD g.val = false)
    (hg : s.monitor.freezeOnGrant = true) (hf : s.monitor.freeze = none) : escalateGrant g s =
    writeRecord none none none none (.freeze (.grant g))
      { listGrant g s with monitor := { (listGrant g s).monitor with freeze := some (.grant g) } } := by
  rw [escalateGrant_new h, if_pos hg]
  exact freezeTrigger_off (s := listGrant g s) hf

/-! ### The admission -/

/-- The charge, record and report of an admission; the report names the unit's bus as it was (R37, R39, R40). -/
theorem noteAdmission_eq (c : ChanId) (r : Request) (g : Option Slot) (cost : Nat) (s : State) :
    noteAdmission c r g cost s =
      report ⟨.admitted, some (chanPort c), r.unit.bind fun v => unitBus v s, r.unit⟩
        (recordAdmitted c r g (chargeSelected g cost s)) := by
  have charged : (chargeSelected g cost s).units = s.units := by
    cases g with
    | none => rfl
    | some i => exact charge_units i cost s
  have units : (recordAdmitted c r g (chargeSelected g cost s)).units = s.units := by
    unfold recordAdmitted
    split <;> exact charged
  have bus : ∀ v, unitBus v (recordAdmitted c r g (chargeSelected g cost s)) = unitBus v s := fun v => by
    unfold unitBus; rw [unitAt_congr units]
  unfold noteAdmission admissionReport
  simp only [bus]

/-- Settles O22, by the cases of the charge and of the escalation. -/
theorem chargeAdvancesTheBudgetCounter : Obligations.ChargeAdvancesTheBudgetCounter := by
  refine ⟨fun c r g cost s => ?_, fun g cost s => ?_⟩
  · intro charged record
    rw [noteAdmission_eq]
    cases r <;> rfl
  · intro x spent listed
    refine ⟨fun ha => ⟨remaining_unmetered ha, canPay_unmetered ha⟩, remaining_counter_zero, remaining_metered,
      charge_none, fun n hn h1 hle => ?_⟩
    obtain ⟨ha, hsum⟩ := metered_of_remaining hn (h1.trans hle)
    refine ⟨by rw [canPay_of_remaining hn]; exact decide_eq_true hle, fun hlt => ?_, fun heq => ?_⟩
    · exact ⟨charge_within ha h1 (show x.counter.toNat + cost < 1048576 by omega), remaining_advanced ha hsum h1 hlt⟩
    · have whole := charge_whole (s := s) (g := g) ha h1 (heq ▸ hsum)
      refine ⟨fun he => whole.trans (by rw [he]; rfl), fun he hin => ?_, fun he hnew => ⟨fun hf => ?_, fun hg hf => ?_⟩⟩
      · exact whole.trans (by rw [he]; exact escalateGrant_listed (s := spentState g s) hin)
      · exact whole.trans (by rw [he]; exact escalateGrant_unfrozen (s := spentState g s) hnew hf)
      · exact whole.trans (by rw [he]; exact escalateGrant_freezes (s := spentState g s) hnew hg hf)

end Sys2Proof.Machine
end

section
/-! GRANT INSTALL (R4, R5): which arguments are good, which slot is chosen, and the grant that is written. -/

namespace Sys2Proof.Machine

/-! ### The arguments -/

/-- The arguments R4 accepts: slot, requester, unit, classes, rights and allowance each in range. -/
def GoodInstall (a : GrantArgs) : Prop :=
  (a.slot.toNat < 32 ∨ a.slot = 0xFF#8) ∧ 1 ≤ a.requester.toNat ∧ a.requester.toNat ≤ 3 ∧
    a.unitValue.toNat ≤ 15 ∧ a.unitMask.toNat ≤ 15 ∧ 1 ≤ a.classes.toNat ∧ a.classes.toNat ≤ 255 ∧
    (∀ i, i < 4 → a.rights.toNat / 4 ^ i % 4 ≠ 3) ∧ a.allowance.toNat ≤ 1048575

theorem portOf_isSome_iff (b : Byte) : (portOf b).isSome = true ↔ 1 ≤ b.toNat ∧ b.toNat ≤ 3 := by
  by_cases h : 1 ≤ b.toNat ∧ b.toNat ≤ 3
  · simp only [portOf_some b h, Option.isSome_some, h, and_self]
  · simp only [portOf_none b h, Option.isSome_none, h, Bool.false_eq_true]

theorem rightsOf_isSome_iff (b : Byte) :
    (rightsOf b).isSome = true ↔ ∀ i, i < 4 → b.toNat / 4 ^ i % 4 ≠ 3 := by
  by_cases h : ∀ i, i < 4 → b.toNat / 4 ^ i % 4 ≠ 3
  · obtain ⟨v, hv, -⟩ := rightsOf_good b h
    exact iff_of_true (by rw [hv]; rfl) h
  · exact iff_of_false (by rw [rightsOf_bad b h]; exact Bool.false_ne_true) h

theorem slotOf_isSome_iff (b : Byte) : (slotOf b).isSome = true ↔ b.toNat < 32 := by
  by_cases h : b.toNat < 32
  · exact iff_of_true (by rw [slotOf_eq b ⟨b.toNat, h⟩ rfl]; rfl) h
  · exact iff_of_false (by rw [slotOf_none b (by omega)]; exact Bool.false_ne_true) h

/-- The model's argument check is R4's. -/
theorem installCheck_iff (a : GrantArgs) :
    (installArgsOk a && ((slotOf a.slot).isSome || a.slot == 0xFF#8)) = true ↔ GoodInstall a := by
  unfold installArgsOk GoodInstall maxAllowance
  simp only [Bool.and_eq_true, Bool.or_eq_true, portOf_isSome_iff, rightsOf_isSome_iff, slotOf_isSome_iff, beq_iff_eq,
    bne_iff_ne, decide_eq_true_eq]
  constructor
  · rintro ⟨⟨⟨⟨⟨⟨hport, huv⟩, hum⟩, hc0, hc1⟩, hr⟩, hal⟩, hslot⟩
    exact ⟨hslot, hport.1, hport.2, huv, hum, by omega, by omega, hr, hal⟩
  · rintro ⟨hslot, hp1, hp3, huv, hum, hc1, hc2, hr, hal⟩
    exact ⟨⟨⟨⟨⟨⟨⟨hp1, hp3⟩, huv⟩, hum⟩, by omega, by omega⟩, hr⟩, hal⟩, hslot⟩

/-! ### The slot -/

/-- A named slot is chosen if it is VACANT (R4). -/
theorem chooseSlot_named {b : Byte} {g : Slot} (h : b.toNat = g.val) (s : State) :
    chooseSlot b s = if (grantAt g s).state = .vacant then .ok g else .error .inUse := by
  unfold chooseSlot; rw [slotOf_eq b g h]

/-- FFh asks for the lowest VACANT slot (R4). -/
theorem chooseSlot_any (s : State) : chooseSlot 0xFF#8 s =
    match allSlots.find? fun g => (grantAt g s).state == .vacant with
    | some g => .ok g
    | none => .error .noRoom := rfl

theorem chooseSlot_full {s : State} (h : ∀ g, (grantAt g s).state ≠ .vacant) :
    chooseSlot 0xFF#8 s = .error .noRoom := by
  rw [chooseSlot_any, List.find?_eq_none.mpr fun g _ => by rw [beq_iff_eq]; exact h g]

theorem chooseSlot_lowest {g : Slot} {s : State} (hg : (grantAt g s).state = .vacant)
    (hlow : ∀ h, h < g → (grantAt h s).state ≠ .vacant) : chooseSlot 0xFF#8 s = .ok g := by
  have found : allSlots.find? (fun g => (grantAt g s).state == .vacant) = some g := by
    rw [List.find?_eq_some_iff_getElem]
    refine ⟨by rw [beq_iff_eq]; exact hg, g.val, by simp [allSlots], by simp [allSlots], fun j hj => ?_⟩
    have hne := hlow ⟨j, hj.trans g.isLt⟩ hj
    simpa [allSlots] using hne
  rw [chooseSlot_any, found]

/-! ### The command -/

/-- Bad arguments are answered BAD_ARGUMENT (R4). -/
theorem grantInstall_bad {a : GrantArgs} (h : ¬ GoodInstall a) (env : Envelope) (s : State) :
    grantInstall env a s = answerCommand env cmdGrantInstall .badArgument [] s := by
  rw [← installCheck_iff, Bool.not_eq_true] at h
  unfold grantInstall
  rw [h]
  split
  · rename_i hb; cases hb
  · rfl

/-- The requester a good argument names (R4). -/
def installRequester (a : GrantArgs) : Port :=
  if a.requester = 1 then .spt else if a.requester = 2 then .rpt else .svp

theorem GoodInstall.portOf_eq {a : GrantArgs} (h : GoodInstall a) : portOf a.requester = some (installRequester a) := by
  obtain ⟨-, h1, h3, -⟩ := h
  exact portOf_some a.requester ⟨h1, h3⟩

theorem GoodInstall.rightsOf_eq {a : GrantArgs} (h : GoodInstall a) : ∃ v, rightsOf a.rights = some v ∧ ∀ i : Fin 4,
    v.get i = if a.rights.toNat / 4 ^ i.val % 4 = 0 then .none
      else if a.rights.toNat / 4 ^ i.val % 4 = 1 then .read else .readWrite := by
  obtain ⟨-, -, -, -, -, -, -, hr, -⟩ := h
  exact rightsOf_good a.rights hr

/-- A good install that finds no slot answers why (R4). -/
theorem grantInstall_refused {a : GrantArgs} {s : State} {st : Status} (h : GoodInstall a)
    (hs : chooseSlot a.slot s = .error st) (env : Envelope) :
    grantInstall env a s = answerCommand env cmdGrantInstall st [] s := by
  obtain ⟨v, hv, -⟩ := h.rightsOf_eq
  unfold grantInstall
  simp only [h.portOf_eq, hv, (installCheck_iff a).mpr h, hs]

/-- The GRANT_START record of a slot just written (R5, R11). -/
theorem recordStart_setGrant (g : Slot) (recharged : Bool) (x : Grant) (s : State) :
    recordStart g recharged (setGrant g x s) =
      writeRecord (some x.requester) none (some g) none (.grantStart recharged x.allowance x.state) (setGrant g x s) := by
  unfold recordStart; rw [grantAt_setGrant]

/-- A good install with a slot writes the grant, its record and its answer (R5). -/
theorem grantInstall_written {a : GrantArgs} {s : State} {g : Slot} {rights : Vector Right 4} (h : GoodInstall a)
    (hr : rightsOf a.rights = some rights) (hs : chooseSlot a.slot s = .ok g) (env : Envelope) :
    let x := installedGrant a (installRequester a) rights s.spt.link
    grantInstall env a s = answerCommand env cmdGrantInstall .done [byte g.val]
      (writeRecord (some x.requester) none (some g) none (.grantStart false x.allowance x.state) (setGrant g x s)) := by
  intro x
  unfold grantInstall
  simp only [h.portOf_eq, hr, (installCheck_iff a).mpr h, hs, recordStart_setGrant, x]

/-! ### The grant -/

theorem toNat_ofNat_of_lt {w n : Nat} (h : n < 2 ^ w) : (BitVec.ofNat w n).toNat = n := by
  rw [BitVec.toNat_ofNat, Nat.mod_eq_of_lt h]

/-- The counter loaded from an allowance overflows when the allowance is used up (R5). -/
theorem loadedCounter_toNat (n : Nat) : (loadedCounter n).toNat = if n = 0 then 0 else 1048576 - n := by
  unfold loadedCounter counterLimit
  split
  · rfl
  · exact toNat_ofNat_of_lt (by omega)

/-- A SERVICE grant with lapse on disconnect is ARMED while the link is DOWN; every other is ACTIVE (R5). -/
theorem installedGrant_state (a : GrantArgs) (rights : Vector Right 4) (up : Bool) :
    (installedGrant a (installRequester a) rights up).state =
      if a.requester = 1 ∧ a.lapse ≠ 0 ∧ up = false then .armed else .active := by
  have service : installRequester a = .spt ↔ a.requester = 1 := by
    unfold installRequester
    split
    · exact iff_of_true rfl ‹_›
    · refine iff_of_false ?_ ‹_›
      split <;> simp only [reduceCtorEq, not_false_eq_true]
  unfold installedGrant
  simp only [Bool.and_eq_true, decide_eq_true_eq, service, yes_iff, Bool.not_eq_true', and_assoc]

/-- Settles O54, by the argument check and the chosen slot. -/
theorem grantInstallWritesAGrant : Obligations.GrantInstallWritesAGrant := by
  intro env a s u ht answered right good chosen
  have row : exec (.grantInstall env a) s = .next (grantInstall env a u) := running_at ht
  rw [row]
  refine ⟨fun h => by rw [grantInstall_bad h]; rfl, fun h ⟨g, hg, hv⟩ => ?_, fun h hs hv => ?_, fun g h hc => ?_⟩
  · rw [grantInstall_refused h (by rw [chooseSlot_named hg, if_neg hv])]; rfl
  · rw [grantInstall_refused h (by rw [hs, chooseSlot_full hv])]; rfl
  · obtain ⟨hvac, hwhich⟩ := hc
    have slot : chooseSlot a.slot u = .ok g := by
      rcases hwhich with hg | ⟨hs, hlow⟩
      · rw [chooseSlot_named hg, if_pos hvac]
      · rw [hs, chooseSlot_lowest hvac hlow]
    obtain ⟨v, hv, hright⟩ := GoodInstall.rightsOf_eq h
    obtain ⟨-, -, -, huv, hum, -, hcl, -, hal⟩ := id h
    refine ⟨installedGrant a (installRequester a) v u.spt.link, by rw [grantInstall_written h hv slot]; rfl, rfl,
      installedGrant_state a v u.spt.link, toNat_ofNat_of_lt (by omega), toNat_ofNat_of_lt (by omega),
      toNat_ofNat_of_lt (by omega), rfl, rfl, rfl, rfl, hright, toNat_ofNat_of_lt (by omega), ?_, yes_iff _, rfl, rfl,
      yes_iff _⟩
    have unmetered : a.allowance.toNat = 0 ↔ a.allowance = 0 := BitVec.toNat_inj (y := 0)
    exact (loadedCounter_toNat _).trans (by simp only [unmetered])

end Sys2Proof.Machine
end

section
/-! The commands on an installed grant: SUSPEND, RESUME, RECHARGE and QUERY (R8 to R11, R19). -/

namespace Sys2Proof.Machine

/-! ### The named slot (R8) -/

section OnGrant

variable {slot : Byte} {s : State} (env : Envelope) (code : Byte) (f : Slot → State → State)

/-- No slot: BAD_ARGUMENT. -/
theorem onGrant_none (h : 32 ≤ slot.toNat) :
    onGrant env code slot f s = answerCommand env code .badArgument [] s := by
  unfold onGrant; rw [slotOf_none slot h]

/-- A VACANT slot: WRONG_STATE. -/
theorem onGrant_vacant {g : Slot} (h : slot.toNat = g.val) (hv : (grantAt g s).state = .vacant) :
    onGrant env code slot f s = answerCommand env code .wrongState [] s := by
  unfold onGrant; rw [slotOf_eq slot g h]; exact if_pos hv

/-- A slot that holds a grant: the command acts. -/
theorem onGrant_named {g : Slot} (h : slot.toNat = g.val) (hv : (grantAt g s).state ≠ .vacant) :
    onGrant env code slot f s = f g s := by
  unfold onGrant; rw [slotOf_eq slot g h]; exact if_neg hv

end OnGrant

/-! ### SUSPEND and RESUME (R9, R10) -/

section Named

variable {slot : Byte} {g : Slot} {s : State} (h : slot.toNat = g.val) (env : Envelope)
include h

/-- An ARMED grant is not suspended (R9). -/
theorem grantSuspend_armed (ha : (grantAt g s).state = .armed) :
    grantSuspend env slot s = answerCommand env cmdGrantSuspend .wrongState [] s :=
  (onGrant_named env _ _ h (by rw [ha]; decide)).trans (if_pos ha)

/-- Every other grant becomes SUSPENDED (R9). -/
theorem grantSuspend_done (hv : (grantAt g s).state ≠ .vacant) (ha : (grantAt g s).state ≠ .armed) :
    grantSuspend env slot s =
      answerCommand env cmdGrantSuspend .done [] (setGrant g { grantAt g s with state := .suspended } s) :=
  (onGrant_named env _ _ h hv).trans (if_neg ha)

/-- An ARMED grant is not resumed (R10). -/
theorem grantResume_armed (ha : (grantAt g s).state = .armed) :
    grantResume env slot s = answerCommand env cmdGrantResume .wrongState [] s :=
  (onGrant_named env _ _ h (by rw [ha]; decide)).trans (if_pos ha)

/-- Every other grant takes its resumed state, which is answered (R10). -/
theorem grantResume_done (hv : (grantAt g s).state ≠ .vacant) (ha : (grantAt g s).state ≠ .armed) :
    grantResume env slot s =
      answerCommand env cmdGrantResume .done [grantStateCode (resumedState (grantAt g s))]
        (setGrant g { grantAt g s with state := resumedState (grantAt g s) } s) :=
  (onGrant_named env _ _ h hv).trans (if_neg ha)

end Named

/-- A grant can pay 1 exactly if it is unmetered or its counter has not overflowed (R14). -/
theorem canPay_one_iff (x : Grant) : canPay x 1 = true ↔ x.allowance = 0 ∨ x.counter ≠ 0 := by
  by_cases ha : x.allowance = 0
  · exact iff_of_true (canPay_unmetered ha 1) (Or.inl ha)
  · by_cases hc : x.counter = 0
    · rw [canPay_of_remaining (remaining_counter_zero ha hc)]
      exact iff_of_false (by decide) (by rintro (e | e); exacts [ha e, e hc])
    · rw [canPay_of_remaining (remaining_metered ha hc), decide_eq_true_eq]
      exact iff_of_true (by have := x.counter.isLt; omega) (Or.inr hc)

/-- Only a SUSPENDED grant changes its state on RESUME (R10). -/
theorem resumedState_other {x : Grant} (h : x.state ≠ .suspended) : resumedState x = x.state := if_neg h

/-- A SUSPENDED grant that can pay becomes ACTIVE (R10). -/
theorem resumedState_payable {x : Grant} (h : x.state = .suspended) (hp : x.allowance = 0 ∨ x.counter ≠ 0) :
    resumedState x = .active := (if_pos h).trans (if_pos ((canPay_one_iff x).mpr hp))

/-- A SUSPENDED grant that cannot pay becomes SPENT (R10). -/
theorem resumedState_spent {x : Grant} (h : x.state = .suspended) (hp : ¬ (x.allowance = 0 ∨ x.counter ≠ 0)) :
    resumedState x = .spent := (if_pos h).trans (if_neg (mt (canPay_one_iff x).mp hp))

/-! ### RECHARGE (R11) -/

/-- An allowance above the largest is BAD_ARGUMENT, whatever the slot (R11). -/
theorem grantRecharge_tooLarge {allowance : BitVec 32} (h : 1048575 < allowance.toNat) (env : Envelope) (slot : Byte)
    (s : State) : grantRecharge env slot allowance s = answerCommand env cmdGrantRecharge .badArgument [] s := if_pos h

/-- With an allowance in range the slot decides (R11). -/
theorem grantRecharge_inRange {allowance : BitVec 32} (h : allowance.toNat ≤ 1048575) (env : Envelope) (slot : Byte)
    (s : State) : grantRecharge env slot allowance s = onGrant env cmdGrantRecharge slot (fun g s =>
      answerCommand env cmdGrantRecharge .done []
        (recordStart g true (setGrant g (rechargedGrant (grantAt g s) allowance.toNat) s))) s :=
  if_neg (Nat.not_lt.mpr h)

/-- RECHARGE makes a SPENT grant ACTIVE and leaves every other state (R11). -/
theorem rechargedState_eq (st : GrantState) : rechargedState st = if st = .spent then .active else st := by
  cases st <;> rfl

/-- The recharged grant: its state, allowance and counter anew, all else as before (R11). -/
theorem rechargedGrant_eq (x : Grant) (allowance : BitVec 32) : rechargedGrant x allowance.toNat =
    { x with
      state := if x.state = .spent then .active else x.state
      allowance := BitVec.ofNat 20 allowance.toNat
      counter := if allowance = 0 then 0 else BitVec.ofNat 20 (1048576 - allowance.toNat) } := by
  have unmetered : allowance.toNat = 0 ↔ allowance = 0 := BitVec.toNat_inj (y := 0)
  unfold rechargedGrant loadedCounter counterLimit
  simp only [rechargedState_eq, unmetered]

/-! ### QUERY (R19) -/

/-- FFFFFFFFh stands for the remaining budget of an unmetered grant (R19, log 22). -/
theorem remainingWord_eq (x : Grant) : remainingWord x =
    if x.allowance = 0 then 0xFFFFFFFF else if x.counter = 0 then 0 else 1048576 - x.counter.toNat := by
  unfold remainingWord
  split_ifs with ha hc
  · rw [remaining_unmetered ha]
  · rw [remaining_counter_zero ha hc]
  · rw [remaining_metered ha hc]

/-- The requester's byte (11.6). -/
theorem requesterByte_eq (p : Port) : byte (portCode p) = match p with
    | .spt => 1
    | .rpt => 2
    | .svp => 3 := by
  cases p <;> rfl

theorem grantQuery_named {slot : Byte} {g : Slot} (h : slot.toNat = g.val) (env : Envelope) (s : State) :
    grantQuery env slot s = answerCommand env cmdGrantQuery .done (grantImage g (grantAt g s)) s := by
  unfold grantQuery; rw [slotOf_eq slot g h]

/-- FFh answers every slot's state (R19). -/
theorem grantQuery_all (env : Envelope) (s : State) : grantQuery env 0xFF#8 s =
    answerCommand env cmdGrantQuery .done (allSlots.map fun g => grantStateCode (grantAt g s).state) s := rfl

theorem grantQuery_none {slot : Byte} (h : 32 ≤ slot.toNat) (hf : slot ≠ 0xFF#8) (env : Envelope) (s : State) :
    grantQuery env slot s = answerCommand env cmdGrantQuery .badArgument [] s := by
  unfold grantQuery; rw [slotOf_none slot h]; exact if_neg hf

/-- Settles O55, command by command. -/
theorem grantsAreSuspendedResumedRechargedQueried : Obligations.GrantsAreSuspendedResumedRechargedQueried := by
  intro env slot allowance g s u ht answered x named payable
  have suspend : exec (.grantSuspend env slot) s = .next (grantSuspend env slot u) := running_at ht
  have resume : exec (.grantResume env slot) s = .next (grantResume env slot u) := running_at ht
  have recharge : exec (.grantRecharge env slot allowance) s = .next (grantRecharge env slot allowance u) :=
    running_at ht
  have query : exec (.grantQuery env slot) s = .next (grantQuery env slot u) := running_at ht
  rw [suspend, resume, recharge, query]
  have live : x.state = .armed → x.state ≠ .vacant := fun e => by rw [e]; decide
  refine ⟨fun h => ?_, fun h => ?_, fun h hv => ?_, fun ⟨h, hv⟩ ha => ?_, fun ⟨h, hv⟩ ha => ?_, fun ⟨h, hv⟩ hr => ?_, ?_,
    fun h hf => congrArg _ (grantQuery_none h hf env u)⟩
  · exact ⟨congrArg _ (onGrant_none env _ _ h), congrArg _ (onGrant_none env _ _ h)⟩
  · by_cases hr : 1048575 < allowance.toNat
    · exact congrArg _ (grantRecharge_tooLarge hr env slot u)
    · rw [grantRecharge_inRange (Nat.not_lt.mp hr)]
      exact congrArg _ (onGrant_none env _ _ (h.resolve_right hr))
  · refine ⟨congrArg _ (onGrant_vacant env _ _ h hv), congrArg _ (onGrant_vacant env _ _ h hv), fun hr => ?_⟩
    rw [grantRecharge_inRange hr]
    exact congrArg _ (onGrant_vacant env _ _ h hv)
  · exact ⟨congrArg _ (grantSuspend_armed h env ha), congrArg _ (grantResume_armed h env ha)⟩
  · refine ⟨congrArg _ (grantSuspend_done h env hv ha), fun hs => ?_, fun hs hp => ?_, fun hs hp => ?_⟩
    · have code : grantStateCode x.state = if x.state = .active then 0x02#8 else 0x04#8 := by
        cases e : x.state with
        | vacant => exact absurd e hv
        | armed => exact absurd e ha
        | suspended => exact absurd e hs
        | active | spent => rfl
      rw [grantResume_done h env hv ha, resumedState_other hs, ← code]
      exact congrArg (fun v => Host.Outcome.next (answered 0x83 .done _ v)) (setGrant_self g u)
    · rw [grantResume_done h env hv ha, resumedState_payable hs hp]; rfl
    · rw [grantResume_done h env hv ha, resumedState_spent hs hp]; rfl
  · intro next counter
    rw [grantRecharge_inRange hr, onGrant_named env _ _ h hv, rechargedGrant_eq, recordStart_setGrant]
    rfl
  · intro code right flag
    refine ⟨fun h => ?_, fun h => ?_⟩
    · rw [grantQuery_named h]
      unfold grantImage
      rw [requesterByte_eq, remainingWord_eq]
      rfl
    · rw [h, grantQuery_all]
      rfl

end Sys2Proof.Machine
end

section
/-! The end of a grant by expiry and revoke (R12, R13, R17, R18): after its consequences, in any order, nothing runs under it. -/

namespace Sys2Proof.Machine

/-! ### Nothing runs under an ended grant -/

/-- The consequence that reaches unit `w`'s claim leaves no claim under the grant that can leave. -/
theorem grantClaim_over (w : UnitId) (g : Slot) (v : State) :
    ClaimOver w (fun cl => cl.grant = some g) (runConsequence (.grantClaim w g) v) := by
  unfold runConsequence
  dsimp only
  split
  · intro hc
    rw [canLeave_leaveClaim] at hc
    cases hc
  · rename_i hne
    exact fun _ => hne

/-- The consequence that reaches context `k` concludes its stream under the grant. -/
theorem streamGrant_over (k : CtxId) (g : Slot) (v : State) :
    StreamsOver (fun x => x.grant = g) k (runConsequence (.streamGrant k g) v) := by
  unfold runConsequence
  dsimp only
  split
  · exact fun x hx _ => concludeStream_concludes k _ v x hx
  · rename_i hno
    intro x hx hg
    exact absurd (by unfold streamHas; rw [hx]; exact beq_iff_eq.mpr hg) hno

/-- The consequence that reaches the map engine ends every job under the grant. -/
theorem mapGrant_over (g : Slot) (v : State) : JobsOver (fun j => j.grant = g) (runConsequence (.mapGrant g) v) := by
  unfold runConsequence
  intro j hj hg
  rw [jobsOf_endJobs, List.mem_filter] at hj
  simp [hg] at hj

/-- The consequences of a grant's end, in any order, leave nothing running under it (R18). -/
theorem grantEnd_nothingUnder (ended : List Slot) (g : Slot) (picks : List Nat) (s : State) :
    NothingUnder g (runAll picks (grantConsequences ended g) s) where
  claims w := runAll_reaches (P := ClaimOver w fun cl => cl.grant = some g) (.grantClaim w g) (grantClaim_over w g)
    (fun _ _ hw hv => claimOver_winds hw hv) _ _ (by simp [grantConsequences, allUnits]) s
  streams k := runAll_reaches (P := StreamsOver (fun x => x.grant = g) k) (.streamGrant k g) (streamGrant_over k g)
    (fun _ _ hw hv => streamsOver_winds (fun _ _ later hy => later.2.2.1 ▸ hy) hw hv) _ _
    (by simp [grantConsequences, allCtxs]) s
  jobs := runAll_reaches (P := JobsOver fun j => j.grant = g) (.mapGrant g) (mapGrant_over g)
    (fun _ _ hw hv => jobsOver_winds (fun _ _ same hj => same.2.2.2.2 ▸ hj) hw hv) _ _ (by simp [grantConsequences]) s

/-! ### The entries of a unit whose claim leaves -/

/-- The entries of a channel, stream or map run of `h` that need the claim, by their messages (R64). -/
theorem needsClaimOf_eq (h : ChanId) (e : Entry) : needsClaimOf h e = (sourceChan e.source == some h && match e.msg with
    | .faultErase => true
    | .routineRun _ _ => true
    | .memoryStore _ _ _ => true
    | _ => false) := by
  unfold needsClaimOf isStore isActuation
  cases e.msg <;> rfl

/-- The single requests under the one ended grant (R17). -/
theorem singleRequestUnder_one (g : Slot) (e : Entry) : singleRequestUnder [g] e = (e.grant == some g && match e.source with
    | .channel _ => true
    | _ => false) := by
  unfold singleRequestUnder
  cases e.grant with
  | none => cases e.source <;> rfl
  | some i =>
    have one : [g].contains i = (some i == some g) := by
      rw [Bool.eq_iff_iff, List.contains_iff_mem, List.mem_singleton, beq_iff_eq, Option.some_inj]
    cases e.source
    case channel c => exact one.trans (Bool.and_true _).symm
    all_goals exact (Bool.and_false _).symm

/-- The mode a held claim leaves (R61). -/
theorem leftMode_held {cl : Claim} (h : cl.state = .attended ∨ cl.state = .flash) :
    leftMode cl = if cl.state = .flash then .flash else .attended := by
  unfold leftMode
  rcases h with e | e <;> rw [e] <;> rfl

/-! ### Expiry and revoke -/

/-- An expiry that does not run changes nothing (R12, log 5). -/
theorem grantExpires_still {g : Slot} {s : State} (h : (grantAt g s).state = .vacant ∨ (grantAt g s).expiry = 0)
    (picks : List Nat) : grantExpires g picks s = s := if_pos h

/-- An expiry that runs ends the grant (R12). -/
theorem grantExpires_ends {g : Slot} {s : State} (hv : (grantAt g s).state ≠ .vacant) (he : (grantAt g s).expiry ≠ 0)
    (picks : List Nat) : grantExpires g picks s = endGrant g .expired picks s :=
  if_neg fun h => h.elim hv he

/-- A revoke ends the grant in the named slot, then answers (R13, log 16). -/
theorem grantRevoke_ends {slot : Byte} {g : Slot} {s : State} (h : slot.toNat = g.val)
    (hv : (grantAt g s).state ≠ .vacant) (env : Envelope) (picks : List Nat) :
    grantRevoke env slot picks s = answerCommand env cmdGrantRevoke .done [] (endGrant g .revoked picks s) :=
  onGrant_named env _ _ h hv

/-- After its end a grant's slot is VACANT and every other as before (R17). -/
theorem grantAt_endGrant (g : Slot) (reason : EndReason) (picks : List Nat) (s : State) :
    grantAt g (endGrant g reason picks s) = Grant.vacant ∧
      ∀ i, i ≠ g → grantAt i (endGrant g reason picks s) = grantAt i s := by
  have same : ∀ i, grantAt i (endGrant g reason picks s) = grantAt i (vacateGrant g reason s) := fun i =>
    congrArg (fun gs => gs.get i) (winds_runAll (Winds.refl (vacateGrant g reason s)) picks _).grants
  exact ⟨(same g).trans (grantAt_setGrant ..), fun i hi => (same i).trans (grantAt_setGrant_ne _ _ _ _ hi.symm)⟩

/-- A grant's end adds its GRANT_END record to the trail, and at most a FREEZE record (R17, R18). -/
theorem trail_endGrant (g : Slot) (reason : EndReason) (picks : List Nat) (s : State) :
    (endGrant g reason picks s).trail = (vacateGrant g reason s).trail ∨ s.monitor.freeze = none ∧
      ∃ cause, (endGrant g reason picks s).trail =
        appendRecord (vacateGrant g reason s).trail none none none none (.freeze cause) := by
  rcases freezesOnly_grantEnd [g] g picks (vacateGrant g reason s) with ⟨same, -⟩ | ⟨off, cause, -, frozen⟩
  · exact Or.inl same
  · exact Or.inr ⟨off, cause, frozen⟩

/-- Settles O50, by what the consequences of the end do to the tables, the unit records and the trail. -/
theorem grantEndsVacateTheSlot : Obligations.GrantEndsVacateTheSlot := by
  intro g race s u ht x vacated recorded ended
  have ends : ∀ reason, ended reason (endGrant g reason race u) := by
    intro reason
    obtain ⟨vacant, others⟩ := grantAt_endGrant g reason race u
    refine ⟨winds_runAll (Winds.refl _) _ _, grantEnd_nothingUnder _ _ _ _, vacant, others, fun w => ?_,
      trail_endGrant g reason race u⟩
    intro un needsClaim single
    obtain ⟨still, held⟩ := grantEnd_units [g] g race (vacateGrant g reason u) w
    refine ⟨still, fun h hg hs hh ho => ?_⟩
    obtain ⟨either, asListed⟩ := held h hg hs hh ho
    have record : ∀ spares : Bool, leftRecord (fun e => spares && singleRequestUnder [g] e) h .grantEnded un = { un with
        claim := { un.claim with
          state := .leaving, reason := some .grantEnded, target := none, prior := none
          left := some (if un.claim.state = .flash then .flash else .attended) }
        claimTimer := none
        wait := baseEntry :: un.wait.filter fun e => !(needsClaim h e && !(spares && single e)) } := by
      intro spares
      unfold leftRecord leavingClaim
      simp only [needsClaimOf_eq, singleRequestUnder_one, leftMode_held hs]
      rfl
    by_cases hr : race = []
    · exact ⟨true, fun _ => rfl, (asListed hr).trans (record true)⟩
    · rcases either with spared | all
      · exact ⟨true, fun e => absurd e hr, spared.trans (record true)⟩
      · exact ⟨false, fun e => absurd e hr, all.trans (record false)⟩
  have expiry : exec (.grantExpiry g race) s = .next (grantExpires g race u) := running_at ht
  have revoke : ∀ env slot, exec (.grantRevoke env slot race) s = .next (grantRevoke env slot race u) := fun _ _ =>
    running_at ht
  refine ⟨fun hv he => ⟨_, ?_, ends .expired⟩, fun h => ?_, fun env slot => ?_⟩
  · rw [expiry, grantExpires_ends hv he]
  · rw [expiry, grantExpires_still h]
  · intro answered
    rw [revoke]
    exact ⟨fun h hv => ⟨_, congrArg _ (grantRevoke_ends h hv env race), ends .revoked⟩,
      fun h hv => congrArg _ (onGrant_vacant env _ _ h hv), fun h => congrArg _ (onGrant_none env _ _ h)⟩

end Sys2Proof.Machine
end

section
/-! Every command answers a next state: a row acts on a running part, or takes one internal step (R21, R162). -/

namespace Sys2Proof.Machine

theorem running_answers (f : State → State) (s : State) : ∃ t, running f s = .next t := by
  unfold running
  split
  · exact ⟨_, rfl⟩
  · exact ⟨_, rfl⟩

theorem runningInternal_answers (f : State → State) (s : State) : ∃ t, runningInternal f s = .next t := by
  unfold runningInternal
  split
  · exact ⟨_, rfl⟩
  · exact ⟨_, rfl⟩

theorem rawLineChange_answers (l : Line) (level : Bool) (s : State) : ∃ t, execRawLineChange l level s = .next t := by
  unfold execRawLineChange
  split
  · exact ⟨_, rfl⟩
  · exact ⟨_, rfl⟩

/-- Settles O5: reset and power-on answer as they stand, a raw change in and out of reset, the five rows of internal steps by
`runningInternal`, every other row by `running`. -/
theorem everyCommandAnswersANextState : Obligations.EveryCommandAnswersANextState := by
  intro c s
  cases c with
  | powerOn => exact ⟨_, rfl⟩
  | resetNAsserted => exact ⟨_, rfl⟩
  | rawLineChange l level => exact rawLineChange_answers l level s
  | waitListPromotion v => exact runningInternal_answers (promoteWait v) s
  | streamContextFreed k => exact runningInternal_answers (freeStream k) s
  | mapJobStart => exact runningInternal_answers startJob s
  | stagedRequestPromotion c => exact runningInternal_answers (promoteStagedRow c) s
  | channelDrained c => exact runningInternal_answers (drainChannel c) s
  | _ => exact running_answers _ s

end Sys2Proof.Machine
end

section
/-! The claim stage (R29, R30): one test for each group of kinds, on the claim of the request's unit. -/

namespace Sys2Proof.Machine

/-! ### The test of each group of kinds -/

section Groups
variable {c : ChanId} {r : Request} {v : UnitId} {s : State}

theorem claimStage_read (hv : r.unit = some v) (hk : r.kind ∈ [.itemRead, .faultRead, .windowRead, .mapRead]) :
    claimStage c r s = readClaimTest c (unitAt v s).claim := by
  cases r <;> simp_all [Request.unit, Request.kind, claimStage]

theorem claimStage_write (hv : r.unit = some v) (hk : r.kind ∈ [.faultClear, .routine, .windowWrite, .mapWrite]) :
    claimStage c r s = needClaim c (unitAt v s).claim inMode := by
  cases r <;> simp_all [Request.unit, Request.kind, claimStage]

theorem claimStage_streamOpen (hv : r.unit = some v) (hk : r.kind = .streamOpen) :
    claimStage c r s = needClaim c (unitAt v s).claim fun st => st == .flash := by
  cases r <;> simp_all [Request.unit, Request.kind, claimStage]

theorem claimStage_modeClaim (hv : r.unit = some v) (hk : r.kind = .modeClaim) :
    claimStage c r s = claimClaimTest c (unitAt v s).claim := by
  cases r <;> simp_all [Request.unit, Request.kind, claimStage]

theorem claimStage_holder (hv : r.unit = some v) (hk : r.kind ∈ [.keep, .modeRelease]) :
    claimStage c r s = holderTest c (unitAt v s).claim := by
  cases r <;> simp_all [Request.unit, Request.kind, claimStage]

end Groups

/-! ### What each test asks of the claim -/

theorem inMode_iff (st : ClaimState) : inMode st = true ↔ st = .attended ∨ st = .flash := by
  cases st <;> decide

theorem holdsClaim_iff (c : ChanId) (cl : Claim) :
    holdsClaim c cl = true ↔ cl.holder = some c ∧ (cl.state = .attended ∨ cl.state = .flash) := by
  unfold holdsClaim
  rw [Bool.and_eq_true, Bool.or_eq_true, beq_iff_eq, beq_iff_eq, beq_iff_eq]

/-- R29: reserved by another channel: FLASH, entering FLASH or from FLASH, or leaving FLASH. -/
theorem reservedByOther_iff (c : ChanId) (cl : Claim) : reservedByOther c cl = true ↔
    cl.holder ≠ some c ∧ (cl.state = .flash ∨
      (cl.state = .entering ∧ (cl.target = some .flash ∨ cl.prior = some .flash)) ∨
      (cl.state = .leaving ∧ cl.left = some .flash)) := by
  unfold reservedByOther
  rw [Bool.and_eq_true, bne_iff_ne]
  cases cl.state <;> simp

theorem claimClaimTest_eq (c : ChanId) (cl : Claim) : claimClaimTest c cl =
    if cl.state = .free ∨ (cl.holder = some c ∧ (cl.state = .attended ∨ cl.state = .flash)) then none else some .held := by
  unfold claimClaimTest
  cases cl.state <;> simp

/-- Settles O23, by the test of each group of kinds. -/
theorem claimStageTests : Obligations.ClaimStageTests := by
  intro c r v s hv cl mine reserved
  refine ⟨fun hk => ?_, fun hk => ?_, fun hk => ?_, fun hk => ?_, fun hk => ?_⟩
  · rw [claimStage_read hv hk, readClaimTest]
    exact if_congr (reservedByOther_iff c cl) rfl rfl
  · rw [claimStage_write hv hk, needClaim]
    simp only [inMode_iff]
    rfl
  · rw [claimStage_streamOpen hv hk, needClaim]
    simp only [beq_iff_eq]
    rfl
  · rw [claimStage_modeClaim hv hk, claimClaimTest_eq]
  · rw [claimStage_holder hv hk, holderTest]
    exact if_congr (holdsClaim_iff c cl) rfl rfl

end Sys2Proof.Machine
end

section
/-! The interlock stage (R31): the kinds that must not reach a unit now, on the filtered lines. -/

namespace Sys2Proof.Machine

theorem isLive_iff (v : UnitId) (i : Fin 4) (s : State) :
    isLive v i s = true ↔ ∃ w, windowAt v i s = some w ∧ w.live = true := by
  unfold isLive
  cases windowAt v i s <;> simp

theorem mapLive_iff (v : UnitId) (j : Fin 4) (s : State) :
    mapLive v j s = true ↔ ∃ m, mapAt v j s = some m ∧ ∃ w, windowAt v m.window s = some w ∧ w.live = true := by
  unfold mapLive
  cases mapAt v j s <;> simp [isLive_iff]

theorem writeInterlocked_iff (live : Bool) (s : State) : writeInterlocked live s = true ↔
    s.filtered.move = true ∨ (s.filtered.run = true ∧ ¬ live = true) := by
  unfold writeInterlocked
  rw [Bool.or_eq_true, Bool.and_eq_true, Bool.not_eq_true', Bool.not_eq_true]

theorem flashInterlocked_iff (s : State) : flashInterlocked s = true ↔
    s.filtered.run = true ∨ s.filtered.move = true := by
  unfold flashInterlocked
  rw [Bool.or_eq_true]

theorem interlockStage_iff (r : Request) (s : State) :
    interlockStage r s = some .interlock ↔ interlocked r s = true := by
  unfold interlockStage
  cases interlocked r s <;> decide

theorem interlockStage_cases (r : Request) (s : State) :
    interlockStage r s = none ∨ interlockStage r s = some .interlock := by
  unfold interlockStage
  split
  · exact Or.inr rfl
  · exact Or.inl rfl

/-- Settles O24, kind by kind. -/
theorem interlockStageByLines : Obligations.InterlockStageByLines := by
  intro r s live
  refine ⟨(interlockStage_iff r s).trans ?_, interlockStage_cases r s, fun v i o data hw => ?_,
    fun v j r0 c0 w1 h1 key mask cells hm => ?_⟩
  · cases r with
    | faultClear v => exact Iff.rfl
    | routine v id arg => exact Iff.rfl
    | windowWrite v i o data => exact (writeInterlocked_iff _ s).trans (by rw [isLive_iff])
    | mapWrite v j r0 c0 w1 h1 key mask cells => exact (writeInterlocked_iff _ s).trans (by rw [mapLive_iff])
    | modeClaim v mode count =>
      cases mode with
      | attended => exact iff_of_false Bool.false_ne_true id
      | flash => exact flashInterlocked_iff s
    | streamOpen v i policy size start total => exact flashInterlocked_iff s
    | _ => exact iff_of_false Bool.false_ne_true id
  · simp only [rangeStage, windowRange, hw]
  · simp only [rangeStage, hm]

end Sys2Proof.Machine
end

section
/-! The grant stage (R26, R27): which grants are candidates, and which of them is selected. -/

namespace Sys2Proof.Machine

/-- The lowest index where a test holds. -/
theorem find?_allSlots_iff (p : Slot → Bool) (i : Slot) :
    allSlots.find? p = some i ↔ p i = true ∧ ∀ j, j < i → p j = false := by
  unfold allSlots
  rw [← Fin.find?_eq_find?_finRange]
  exact Fin.find?_eq_some_iff

theorem candidateState_iff (st : GrantState) : candidateState st = true ↔ st ∈ [.active, .suspended, .spent] := by
  cases st <;> decide

theorem allowsRead_iff (x : Right) : allowsRead x = true ↔ x ≠ .none := by cases x <;> decide

theorem allowsWrite_iff (x : Right) : allowsWrite x = true ↔ x = .readWrite := by cases x <;> decide

/-- An undefined map tests no right (R26). -/
theorem mapRight_iff (allows : Right → Bool) (v : UnitId) (j : Fin 4) (g : Grant) (s : State) :
    mapRight allows v j g s = true ↔ ∀ m, mapAt v j s = some m → allows (g.rights.get m.window) = true := by
  unfold mapRight
  cases mapAt v j s <;> simp

/-- R26's five conditions on a request that carries a unit and has a class. -/
theorem isCandidate_iff {r : Request} {v : UnitId} {b : Nat} (hv : r.unit = some v) (hb : kindClass r.kind = some b)
    (p : Port) (g : Grant) (s : State) : isCandidate p r g s = true ↔
      g.state ∈ [.active, .suspended, .spent] ∧ g.requester = p ∧
        maskedMatch (BitVec.ofNat 4 v.val) g.unitValue g.unitMask = true ∧ g.classes.getLsbD b = true ∧
        furtherMatch r g s = true := by
  unfold isCandidate matchesUnit
  rw [hv, hb]
  simp only [Bool.and_eq_true, candidateState_iff, beq_iff_eq, and_assoc]

/-- A candidate that R27 may select: ACTIVE, and able to pay the cost. -/
def mayPay (c : ChanId) (r : Request) (s : State) (i : Slot) : Bool :=
  isCandidate (chanPort c) r (grantAt i s) s && (grantAt i s).state == .active && canPay (grantAt i s) (costOf r s)

theorem mayPay_iff (c : ChanId) (r : Request) (s : State) (i : Slot) : mayPay c r s i = true ↔
    isCandidate (chanPort c) r (grantAt i s) s = true ∧ (grantAt i s).state = .active ∧
      canPay (grantAt i s) (costOf r s) = true := by
  unfold mayPay
  rw [Bool.and_eq_true, Bool.and_eq_true, beq_iff_eq, and_assoc]

theorem selectGrant_iff (c : ChanId) (r : Request) (s : State) (i : Slot) :
    selectGrant c r s = some i ↔ mayPay c r s i = true ∧ ∀ j, j < i → ¬ mayPay c r s j = true := by
  simp only [Bool.not_eq_true]
  exact find?_allSlots_iff (mayPay c r s) i

theorem selectGrant_isSome {c : ChanId} {r : Request} {s : State} {i : Slot} (h : mayPay c r s i = true) :
    (selectGrant c r s).isSome = true :=
  List.find?_isSome.mpr ⟨i, List.mem_finRange i, h⟩

theorem selectGrant_none {c : ChanId} {r : Request} {s : State} (h : ∀ i, ¬ mayPay c r s i = true) :
    selectGrant c r s = none :=
  List.find?_eq_none.mpr fun i _ => h i

theorem someCandidate_iff (p : Port) (r : Request) (st : GrantState) (s : State) : someCandidate p r st s = true ↔
    ∃ i, isCandidate p r (grantAt i s) s = true ∧ (grantAt i s).state = st := by
  unfold someCandidate
  simp only [List.any_eq_true, Bool.and_eq_true, beq_iff_eq, allSlots, List.mem_finRange, true_and]

/-- A request with a class passes the stage by its selected grant, or is refused by its candidates' states. -/
theorem grantStage_classed {r : Request} {b : Nat} (hb : kindClass r.kind = some b) (c : ChanId) (s : State) :
    grantStage c r s =
      if (selectGrant c r s).isSome then none else some (selectionRefusal (chanPort c) r s) := by
  unfold grantStage
  rw [hb]
  cases selectGrant c r s <;> rfl

/-- Settles O21: a slot qualifies exactly where `mayPay` holds of it. -/
theorem grantSelection : Obligations.GrantSelection := by
  intro c r v b s hv hb right further candidate qualifies
  have further_iff : ∀ i, furtherMatch r (grantAt i s) s = true ↔ further i := by
    intro i
    cases r with
    | itemRead w id => exact Iff.rfl
    | routine w id arg => exact Iff.rfl
    | windowRead w j o n => exact allowsRead_iff _
    | windowWrite w j o data => exact allowsWrite_iff _
    | mapRead w j r0 c0 w1 h1 =>
      cases hv
      exact (mapRight_iff ..).trans (forall₂_congr fun m _ => allowsRead_iff _)
    | mapWrite w j r0 c0 w1 h1 key mask cells =>
      cases hv
      exact (mapRight_iff ..).trans (forall₂_congr fun m _ => allowsWrite_iff _)
    | _ => exact iff_of_true rfl trivial
  have candidate_iff : ∀ i, isCandidate (chanPort c) r (grantAt i s) s = true ↔ candidate i := fun i => by
    rw [isCandidate_iff hv hb, further_iff]
  have qualifies_iff : ∀ i, mayPay c r s i = true ↔ qualifies i := fun i => by
    rw [mayPay_iff, candidate_iff]
  have found_iff : ∀ st, someCandidate (chanPort c) r st s = true ↔ ∃ i, candidate i ∧ (grantAt i s).state = st :=
    fun st => by rw [someCandidate_iff]; simp only [candidate_iff]
  refine ⟨fun i => ?_, fun i hi => ?_, fun hnone => ?_⟩
  · rw [selectGrant_iff]
    simp only [qualifies_iff]
  · rw [grantStage_classed hb, selectGrant_isSome ((qualifies_iff i).mpr hi), if_pos rfl]
  · intro found
    have refused : grantStage c r s = some (selectionRefusal (chanPort c) r s) := by
      rw [grantStage_classed hb, selectGrant_none fun i hi => hnone i ((qualifies_iff i).mp hi)]
      rfl
    have absent : ∀ st, ¬ found st → ¬ someCandidate (chanPort c) r st s = true := fun st => mt (found_iff st).mp
    rw [refused, selectionRefusal]
    refine ⟨fun ha => ?_, fun ha hs => ?_, fun ha hs hp => ?_, fun hno => ?_⟩
    · rw [if_pos ((found_iff _).mpr ha)]
    · rw [if_neg (absent _ ha), if_pos ((found_iff _).mpr hs)]
    · rw [if_neg (absent _ ha), if_neg (absent _ hs), if_pos ((found_iff _).mpr hp)]
    · have unfound : ∀ st, ¬ found st := fun st ⟨i, hi, _⟩ => hno i hi
      rw [if_neg (absent _ (unfound _)), if_neg (absent _ (unfound _)), if_neg (absent _ (unfound _))]

end Sys2Proof.Machine
end

section
/-! The admission check (R21): its stages in their order, what each earlier stage asks (R23 to R28), and the capacity stage by
kind (R36). -/

namespace Sys2Proof.Machine

section Stages
variable {c : ChanId} {body : List Byte} {r : Request} {v : UnitId} {d : UnitDef} {s : State}

/-! ### The form, unit, freeze and bus stages -/

theorem check_malformed (h : parseRequest body = none) : check c body s = .refused .malformed := by
  unfold check
  rw [h]

theorem check_refused {st : Status} (h : parseRequest body = some r) (hr : refusalOf c r s = some st) :
    check c body s = .refused st := by
  unfold check
  rw [h]
  dsimp only
  rw [hr]

theorem check_admitted_inv {g : Option Slot} {p : Plan} (h : check c body s = .admitted r g p) :
    parseRequest body = some r ∧ refusalOf c r s = none ∧ g = selectGrant c r s ∧ p = planOf r s := by
  unfold check at h
  split at h
  · cases h
  · rename_i r' hparse
    split at h
    · cases h
    · rename_i hr
      cases h
      exact ⟨hparse, hr, rfl, rfl⟩

theorem refusalOf_none_iff : refusalOf c r s = none ↔ unitStage r s = none ∧ freezeStage c r.kind s = none ∧
    busStage r s = none ∧ grantStage c r s = none ∧ claimStage c r s = none ∧ interlockStage r s = none ∧
    rangeStage r s = none ∧ capacityStage r s = none := by
  simp [refusalOf, stages]

theorem unitStage_undefined (hv : r.unit = some v) (hd : (unitAt v s).defn = none) : unitStage r s = some .noUnit := by
  unfold unitStage
  rw [hv]
  exact if_pos (Option.isNone_iff_eq_none.mpr hd)

theorem unitStage_pass (h : ¬ ∃ v, r.unit = some v ∧ (unitAt v s).defn = none) : unitStage r s = none := by
  unfold unitStage
  split
  · rfl
  · rename_i v hv
    exact if_neg fun hd => h ⟨v, hv, Option.isNone_iff_eq_none.mp hd⟩

/-- R24: the freeze is ON, and neither the port nor the kind is exempt. -/
def Frozen (c : ChanId) (k : ReqKind) (s : State) : Prop :=
  s.monitor.freeze ≠ none ∧ chanPort c ≠ .svp ∧ k ∉ [.keep, .modeRelease, .streamEnd, .streamAbort, .channelClose]

theorem freezeExempt_iff (k : ReqKind) :
    freezeExempt k = true ↔ k ∈ [.keep, .modeRelease, .streamEnd, .streamAbort, .channelClose] := by
  cases k <;> decide

theorem frozen_iff (k : ReqKind) :
    (s.monitor.freeze.isSome && !freezeExempt k && chanPort c != .svp) = true ↔ Frozen c k s := by
  unfold Frozen
  rw [Bool.and_eq_true, Bool.and_eq_true, Bool.not_eq_true', ← Bool.not_eq_true, freezeExempt_iff, bne_iff_ne,
    ← Option.ne_none_iff_isSome, and_assoc, and_comm (a := _ ∉ _)]

theorem freezeStage_frozen {k : ReqKind} (h : Frozen c k s) : freezeStage c k s = some .frozen :=
  if_pos ((frozen_iff k).mpr h)

theorem freezeStage_pass {k : ReqKind} (h : ¬ Frozen c k s) : freezeStage c k s = none :=
  if_neg (mt (frozen_iff k).mp h)

theorem freezeStage_none_iff (k : ReqKind) : freezeStage c k s = none ↔ ¬ Frozen c k s :=
  ⟨fun h hf => Option.some_ne_none _ ((freezeStage_frozen hf).symm.trans h), freezeStage_pass⟩

/-- What the bus stage answers for a bus in each state (R25). -/
def busRefusal : BusState → Option Status
  | .active => none
  | .off => some .busFault
  | .asleep => some .unitAsleep

theorem busStage_defined (hv : r.unit = some v) (hd : (unitAt v s).defn = some d) :
    busStage r s = busRefusal (busAt d.bus s).state := by
  unfold busStage unitBus
  rw [hv, Option.bind_some, hd, Option.map_some]
  rfl

theorem busStage_unitless (hv : r.unit = none) : busStage r s = none := by
  unfold busStage
  rw [hv]
  rfl

/-- A request whose unit, if it carries one, is DEFINED on an ACTIVE bus (R23, R25). -/
def OnActiveBus (r : Request) (s : State) : Prop :=
  ∀ v, r.unit = some v → ∃ d, (unitAt v s).defn = some d ∧ (busAt d.bus s).state = .active

theorem unit_and_bus_pass_iff : unitStage r s = none ∧ busStage r s = none ↔ OnActiveBus r s := by
  constructor
  · rintro ⟨hunit, hbus⟩ v hv
    cases hd : (unitAt v s).defn with
    | none => rw [unitStage_undefined hv hd] at hunit; cases hunit
    | some d =>
      refine ⟨d, rfl, ?_⟩
      rw [busStage_defined hv hd] at hbus
      cases hb : (busAt d.bus s).state with
      | active => rfl
      | off => rw [hb] at hbus; cases hbus
      | asleep => rw [hb] at hbus; cases hbus
  · intro h
    refine ⟨unitStage_pass fun ⟨v, hv, hnone⟩ => ?_, ?_⟩
    · obtain ⟨d, hd, -⟩ := h v hv
      rw [hnone] at hd
      cases hd
    · cases hv : r.unit with
      | none => exact busStage_unitless hv
      | some v =>
        obtain ⟨d, hd, hb⟩ := h v hv
        rw [busStage_defined hv hd, hb, busRefusal]

/-! ### The first stage that fails -/

theorem refusalOf_unit {st : Status} (h : unitStage r s = some st) : refusalOf c r s = some st := by
  simp [refusalOf, stages, h]

theorem refusalOf_freeze {st : Status} (hu : unitStage r s = none) (h : freezeStage c r.kind s = some st) :
    refusalOf c r s = some st := by
  simp [refusalOf, stages, hu, h]

theorem refusalOf_bus {st : Status} (hu : unitStage r s = none) (hf : freezeStage c r.kind s = none)
    (h : busStage r s = some st) : refusalOf c r s = some st := by
  simp [refusalOf, stages, hu, hf, h]

/-- Past the unit, freeze and bus stages the other five decide in their order (R21). -/
theorem check_later (hp : parseRequest body = some r) (hon : OnActiveBus r s) (hf : ¬ Frozen c r.kind s) :
    check c body s =
      match grantStage c r s, claimStage c r s, interlockStage r s, rangeStage r s, capacityStage r s with
      | some st, _, _, _, _ => .refused st
      | none, some st, _, _, _ => .refused st
      | none, none, some st, _, _ => .refused st
      | none, none, none, some st, _ => .refused st
      | none, none, none, none, some st => .refused st
      | none, none, none, none, none => .admitted r (selectGrant c r s) (planOf r s) := by
  obtain ⟨hunit, hbus⟩ := unit_and_bus_pass_iff.mpr hon
  have later : refusalOf c r s =
      [grantStage c r s, claimStage c r s, interlockStage r s, rangeStage r s, capacityStage r s].findSome? id := by
    unfold refusalOf stages
    rw [hunit, freezeStage_pass hf, hbus]
    rfl
  unfold check
  rw [hp]
  dsimp only
  rw [later]
  cases grantStage c r s with
  | some st => rfl
  | none =>
    cases claimStage c r s with
    | some st => rfl
    | none =>
      cases interlockStage r s with
      | some st => rfl
      | none =>
        cases rangeStage r s with
        | some st => rfl
        | none => cases capacityStage r s <;> rfl

/-! ### The grant that pays -/

theorem kindClass_of_paid {k : ReqKind} (h : k ∈ [.itemRead, .faultRead, .faultClear, .routine, .windowRead, .windowWrite,
    .mapRead, .mapWrite, .modeClaim, .streamOpen]) : ∃ b, kindClass k = some b :=
  Option.isSome_iff_exists.mp (by revert k; decide)

/-- A candidate has its state, and its requester is the port's (R26). -/
theorem requester_of_isCandidate {p : Port} {g : Grant} (h : isCandidate p r g s = true) : g.requester = p := by
  simp only [isCandidate, Bool.and_eq_true, beq_iff_eq] at h
  obtain ⟨⟨⟨⟨-, requester⟩, -⟩, -⟩, -⟩ := h
  exact requester

/-- A request that passes the grant stage is paid by an ACTIVE grant of its port (R27). -/
theorem selectGrant_of_grantStage (hk : ∃ b, kindClass r.kind = some b) (h : grantStage c r s = none) :
    ∃ i, selectGrant c r s = some i ∧ (grantAt i s).state = .active ∧ (grantAt i s).requester = chanPort c ∧
      canPay (grantAt i s) (costOf r s) = true := by
  obtain ⟨b, hb⟩ := hk
  rw [grantStage_classed hb] at h
  cases hsel : selectGrant c r s with
  | none => rw [hsel] at h; cases h
  | some i =>
    obtain ⟨hi, -⟩ := (selectGrant_iff c r s i).mp hsel
    obtain ⟨candidate, active, pays⟩ := (mayPay_iff c r s i).mp hi
    exact ⟨i, rfl, active, requester_of_isCandidate candidate, pays⟩

theorem openGrantExists_iff (p : Port) (s : State) :
    openGrantExists p s = true ↔ ∃ i, (grantAt i s).state = .active ∧ (grantAt i s).requester = p := by
  unfold openGrantExists
  simp only [List.any_eq_true, Bool.and_eq_true, beq_iff_eq, allSlots, List.mem_finRange, true_and]

theorem openGrant_of_grantStage (hk : r.kind = .channelOpen) (h : grantStage c r s = none) :
    ∃ i, (grantAt i s).state = .active ∧ (grantAt i s).requester = chanPort c := by
  unfold grantStage at h
  rw [hk] at h
  dsimp only [kindClass] at h
  split at h
  · exact (openGrantExists_iff _ s).mp ‹_›
  · cases h

theorem costOf_in_range (h : rangeStage r s = none) : costOf r s = (planOf r s).cost := by
  unfold costOf
  rw [h]

theorem cost_of_free_kinds (h : r.kind ∈ [.channelOpen, .channelClose, .keep, .modeRelease, .block, .streamEnd,
    .streamAbort]) : (planOf r s).cost = 0 := by
  cases r <;> simp_all [Request.kind, planOf, Plan.flat]

end Stages

/-! ### The capacity stage (R36) -/

section Capacity
variable {r : Request} {v : UnitId} {s : State}

/-- The unit has an outstanding entry and four waiting channel requests. -/
def UnitFull (v : UnitId) (s : State) : Prop :=
  (unitAt v s).out ≠ none ∧ 4 ≤ ((unitAt v s).wait.filter isChannelRequest).length

/-- The map engine has an active job and four queued ones. -/
def MapFull (s : State) : Prop := s.map.active ≠ none ∧ 4 ≤ s.map.queue.length

theorem unitPlaceFree_iff : unitPlaceFree v s = true ↔ ¬ UnitFull v s := by
  unfold unitPlaceFree UnitFull
  rw [Bool.or_eq_true, decide_eq_true_eq, Option.isNone_iff_eq_none, not_and_or, not_not, not_le]
  rfl

theorem mapPlaceFree_iff : mapPlaceFree s = true ↔ ¬ MapFull s := by
  unfold mapPlaceFree MapFull
  rw [Bool.or_eq_true, decide_eq_true_eq, Option.isNone_iff_eq_none, not_and_or, not_not, not_le]
  rfl

theorem unitRoom_full (h : UnitFull v s) : unitRoom v s = some .unitBusy := if_neg (mt unitPlaceFree_iff.mp (not_not.mpr h))

theorem unitRoom_free (h : ¬ UnitFull v s) : unitRoom v s = none := if_pos (unitPlaceFree_iff.mpr h)

theorem mapRoom_full (h : MapFull s) : mapRoom s = some .engineBusy := if_neg (mt mapPlaceFree_iff.mp (not_not.mpr h))

theorem mapRoom_free (h : ¬ MapFull s) : mapRoom s = none := if_pos (mapPlaceFree_iff.mpr h)

theorem repeatsMode_iff (cl : Claim) (m : Mode) : repeatsMode cl m = true ↔ cl.state = match m with
    | .attended => .attended
    | .flash => .flash := by
  unfold repeatsMode
  rw [beq_iff_eq]
  cases m <;> rfl

theorem capacityStage_single (hv : r.unit = some v)
    (hk : r.kind ∈ [.itemRead, .faultRead, .faultClear, .routine, .windowRead, .windowWrite]) :
    capacityStage r s = unitRoom v s := by
  cases r <;> simp_all [Request.unit, Request.kind, capacityStage]

theorem capacityStage_map (hk : r.kind = .mapRead ∨ (r.kind = .mapWrite ∧ (planOf r s).cost ≠ 0)) :
    capacityStage r s = mapRoom s := by
  cases r <;> simp_all [Request.kind, capacityStage]

theorem capacityStage_emptyWrite (hk : r.kind = .mapWrite) (h : (planOf r s).cost = 0) : capacityStage r s = none := by
  cases r <;> simp_all [Request.kind, capacityStage]

theorem capacityStage_streamOpen (hk : r.kind = .streamOpen) :
    capacityStage r s = if (freeCtx s).isNone then some .noRoom else none := by
  cases r <;> simp_all [Request.kind, capacityStage]

theorem capacityStage_free_kinds (hk : r.kind ∈ [.channelOpen, .channelClose, .keep, .modeRelease, .block, .streamEnd,
    .streamAbort]) : capacityStage r s = none := by
  cases r <;> simp_all [Request.kind, capacityStage]

theorem freeCtx_none_iff : (freeCtx s).isNone = true ↔ ∀ k, streamAt k s ≠ none := by
  simp [freeCtx, allCtxs]

end Capacity

/-- What an admitted request has passed (R23 to R28). -/
theorem admitted_laws {c : ChanId} {body : List Byte} {r : Request} {g : Option Slot} {p : Plan} {s : State}
    (h : check c body s = .admitted r g p) :
    parseRequest body = some r ∧ OnActiveBus r s ∧ ¬ Frozen c r.kind s ∧ grantStage c r s = none ∧
      rangeStage r s = none ∧ g = selectGrant c r s ∧ p = planOf r s := by
  obtain ⟨hp, hr, hg, hplan⟩ := check_admitted_inv h
  obtain ⟨hunit, hfreeze, hbus, hgrant, -, -, hrange, -⟩ := refusalOf_none_iff.mp hr
  exact ⟨hp, unit_and_bus_pass_iff.mp ⟨hunit, hbus⟩, (freezeStage_none_iff _).mp hfreeze, hgrant, hrange, hg, hplan⟩

theorem not_frozen_iff (c : ChanId) (k : ReqKind) (s : State) : ¬ Frozen c k s ↔
    s.monitor.freeze = none ∨ chanPort c = .svp ∨ k ∈ [.keep, .modeRelease, .streamEnd, .streamAbort, .channelClose] := by
  unfold Frozen
  simp only [not_and_or, not_not]

/-- Settles O20: what was passed, what fails first, and the capacity stage by kind. -/
theorem admittedOnlyUnderTheLaws : Obligations.AdmittedOnlyUnderTheLaws := by
  refine ⟨fun c body s r g p h => ?_, fun c body s => ⟨check_malformed, fun r hp => ?_, fun r hp hon hf => ?_⟩,
    fun r s => ?_⟩
  · obtain ⟨hp, hon, hf, hgrant, hrange, rfl, rfl⟩ := admitted_laws h
    refine ⟨hp, hon, fun hon => ((not_frozen_iff c _ s).mp hf).resolve_left hon, fun hk => ?_, fun hk => ?_,
      cost_of_free_kinds⟩
    · rw [← costOf_in_range hrange]
      exact selectGrant_of_grantStage (kindClass_of_paid hk) hgrant
    · exact openGrant_of_grantStage hk hgrant
  · refine ⟨fun ⟨v, hv, hd⟩ => check_refused hp (refusalOf_unit (unitStage_undefined hv hd)), fun hdef hf =>
      check_refused hp (refusalOf_freeze (unitStage_pass hdef) (freezeStage_frozen hf)), fun v d hv hd hf => ?_⟩
    have defined : unitStage r s = none := unitStage_pass fun ⟨w, hw, hnone⟩ => by
      cases hv.symm.trans hw
      rw [hnone] at hd
      cases hd
    have bus := busStage_defined (s := s) hv hd
    refine ⟨fun hoff => ?_, fun hasleep => ?_⟩
    · rw [hoff] at bus
      exact check_refused hp (refusalOf_bus defined (freezeStage_pass hf) bus)
    · rw [hasleep] at bus
      exact check_refused hp (refusalOf_bus defined (freezeStage_pass hf) bus)
  · exact check_later hp hon ((not_frozen_iff c _ s).mpr hf)
  · intro full mapFull repeats
    refine ⟨fun v hv hk => ?_, fun v mode count hr hrep => ?_, fun hk => ?_, capacityStage_emptyWrite, fun hk => ?_,
      capacityStage_free_kinds⟩
    · have room : capacityStage r s = unitRoom v s := by
        rcases hk with hk | ⟨mode, count, rfl, hnew⟩
        · exact capacityStage_single hv hk
        · exact if_neg (mt (repeatsMode_iff _ mode).mp hnew)
      rw [room]
      exact ⟨unitRoom_full, unitRoom_free⟩
    · rw [hr]
      exact if_pos ((repeatsMode_iff _ mode).mpr hrep)
    · rw [capacityStage_map hk]
      exact ⟨mapRoom_full, mapRoom_free⟩
    · rw [capacityStage_streamOpen hk]
      refine ⟨fun hfull => if_pos (freeCtx_none_iff.mpr hfull), fun ⟨k, hfree⟩ => if_neg fun hnone => ?_⟩
      exact freeCtx_none_iff.mp hnone k hfree

end Sys2Proof.Machine
end

section
/-! The request rows of the six kinds of single request (R37, R38, R50, R51, R74). -/

namespace Sys2Proof.Machine

section Single
variable {r : Request} {v : UnitId} {msg : UnitMsg} {u : State}

/-- A window's address depends on the unit records only (R32). -/
theorem windowByte_congr {s t : State} (h : s.units = t.units) (v : UnitId) (i : Fin 4) (o : Nat) :
    windowByte v i o s = windowByte v i o t := by
  unfold windowByte windowAt unitAt
  rw [h]

theorem kind_of_single (h : singleMessage r u = some (v, msg)) :
    r.kind ∈ [.itemRead, .faultRead, .faultClear, .routine, .windowRead, .windowWrite] := by
  cases r <;> simp_all [singleMessage, Request.kind]

theorem cost_of_single (h : singleMessage r u = some (v, msg)) (s : State) : (planOf r s).cost = 1 := by
  cases r <;> simp_all [singleMessage, planOf, Plan.flat]

/-- A single request is handed to its unit with its message and its window (R38, R50). -/
theorem handOff_single (h : singleMessage r u = some (v, msg)) {s : State} (hs : s.units = u.units) (c : ChanId)
    (g : Option Slot) (p : Plan) : handOff c r g p s = placeRequest c v msg g (requestWindow r) s := by
  cases r with
  | itemRead w id => cases h; rfl
  | faultRead w => cases h; rfl
  | faultClear w => cases h; rfl
  | routine w id arg => cases h; rfl
  | windowRead w i o n => cases h; rw [← windowByte_congr hs]; rfl
  | windowWrite w i o data => cases h; rw [← windowByte_congr hs]; rfl
  | _ => cases h

end Single

/-- A request placed on its unit does not read or write the channel's record. -/
theorem placeRequest_setChan (c : ChanId) (v : UnitId) (msg : UnitMsg) (g : Option Slot) (w : Option (Fin 4)) (x : Channel)
    (s : State) : placeRequest c v msg g w (setChan c x s) =
      (setChan c x (placeEntry v { source := .channel c, msg := msg, grant := g, window := w, keep := 0 }
        (heldTimerRestarted c v s)), .pends (.unit v) false) := by
  unfold placeRequest
  rw [restartForHolder_eq, heldTimer_setChan, placeEntry_setChan]

/-- Settles O27, by the hand-off of a single request. -/
theorem singleRequestsArePlaced : Obligations.SingleRequestsArePlaced := by
  intro m r v msg g s u ht hi hs hm hr hg
  have kinds : ∀ k ∈ [ReqKind.itemRead, .faultRead, .faultClear, .routine, .windowRead, .windowWrite],
      k ∉ [ReqKind.channelOpen, .channelClose, .block, .streamEnd, .streamAbort] := by decide
  have units : (setChan m.chan (takeMessage m.buf (rowBody r.kind m) (chanAt m.chan u))
      (noteAdmission m.chan r (some g) 1 u)).units = u.units := noteAdmission_units ..
  rw [exec_request_idle ht hi hs hr hg (kinds _ (kind_of_single hm)), cost_of_single hm]
  dsimp only
  rw [handOff_single hm units, placeRequest_setChan]
  dsimp only
  rw [finishHandOff_pends, pending_idle hi]

end Sys2Proof.Machine
end

section
/-! The bodies on the wires: requests read back (11.2), unit messages (11.5) and segments (11.1, R165). -/

namespace Sys2Proof.Machine

/-! ### Requests (11.2) -/

section Requests
variable {r : Request} {v : UnitId}

theorem requestFields_length (h : r.wf = true) : (requestFields r).length < 256 := by
  cases r <;> simp_all [Request.wf, requestFields, leBytes_length] <;> omega

theorem kindHasUnit_iff (r : Request) : kindHasUnit r.kind = r.unit.isSome := by cases r <;> rfl

theorem parse_encode_unit (hv : r.unit = some v) (h : r.wf = true) :
    parseRequest (encodeRequest r) = parseUnitFields r.kind v (requestFields r) := by
  have unitByte : requestUnitByte r = byte v.val := by unfold requestUnitByte; rw [hv]
  unfold encodeRequest
  rw [unitByte]
  exact parseRequest_unit _ v _ (by rw [kindHasUnit_iff, hv]; rfl) (requestFields_length h)

theorem parse_encode_plain (hv : r.unit = none) (h : r.wf = true) :
    parseRequest (encodeRequest r) = parsePlainFields r.kind (requestFields r) := by
  have unitByte : requestUnitByte r = 0xFF#8 := by unfold requestUnitByte; rw [hv]; rfl
  unfold encodeRequest
  rw [unitByte]
  exact parseRequest_plain _ _ (by rw [kindHasUnit_iff, hv]; rfl) (requestFields_length h)

end Requests

theorem leNat_leBytes_word (x : BitVec 16) : BitVec.ofNat 16 (leNat (leBytes 2 x.toNat)) = x := by
  obtain ⟨a, b, e⟩ := leBytes_two x.toNat
  rw [e, leNat_leBytes_two _ x.isLt a b e, BitVec.ofNat_toNat, BitVec.setWidth_eq]

theorem leNat_leBytes_long (x : BitVec 32) : BitVec.ofNat 32 (leNat (leBytes 4 x.toNat)) = x := by
  obtain ⟨a, b, c, d, e⟩ := leBytes_four x.toNat
  rw [e, leNat_leBytes_four _ x.isLt a b c d e, BitVec.ofNat_toNat, BitVec.setWidth_eq]

theorem leNat_leBytes_of_lt_two {n : Nat} (h : n < 65536) : leNat (leBytes 2 n) = n := by
  obtain ⟨a, b, e⟩ := leBytes_two n
  rw [e, leNat_leBytes_two n h a b e]

theorem leNat_leBytes_of_lt_four {n : Nat} (h : n < 4294967296) : leNat (leBytes 4 n) = n := by
  obtain ⟨a, b, c, d, e⟩ := leBytes_four n
  rw [e, leNat_leBytes_four n h a b c d e]

/-! The fields of each kind whose bytes spell numbers, as `parseUnitFields` reads them. -/

theorem parse_routine (v : UnitId) (id : BitVec 16) (arg : List Byte) : parseUnitFields .routine v (leBytes 2 id.toNat ++ arg) =
    if arg.length ≤ 238 then some (.routine v (BitVec.ofNat 16 (leNat (leBytes 2 id.toNat))) arg) else none := rfl

theorem parse_windowRead (v : UnitId) (i : Byte) (o n : Nat) :
    parseUnitFields .windowRead v (i :: 0 :: (leBytes 4 o ++ leBytes 2 n)) =
      (index4 i).map fun i => .windowRead v i (leNat (leBytes 4 o)) (leNat (leBytes 2 n)) := rfl

theorem parse_windowWrite (v : UnitId) (i : Byte) (o n : Nat) (data : List Byte) :
    parseUnitFields .windowWrite v (i :: 0 :: (leBytes 4 o ++ leBytes 2 n ++ data)) =
      if leNat (leBytes 2 n) = data.length then (index4 i).map fun i => .windowWrite v i (leNat (leBytes 4 o)) data
      else none := rfl

theorem parse_mapRead (v : UnitId) (j r0 c0 w1 h1 : Byte) : parseUnitFields .mapRead v [j, r0, c0, w1, h1] =
    (index4 j).map fun j => .mapRead v j r0.toNat c0.toNat w1.toNat h1.toNat := rfl

theorem parse_modeClaim (v : UnitId) (mode count : Byte) : parseUnitFields .modeClaim v [mode, count] =
    (modeOf mode).map fun mode => .modeClaim v mode count.toNat := rfl

theorem parse_mapWrite (v : UnitId) (j r0 c0 w1 h1 : Byte) (n key mask : Nat) (cells : List Byte) :
    parseUnitFields .mapWrite v
        ([j, r0, c0, w1, h1, 0] ++ leBytes 2 n ++ leBytes 4 key ++ leBytes 4 mask ++ cells) =
      if leNat (leBytes 2 n) = 8 + cells.length then
        (index4 j).map fun j => .mapWrite v j r0.toNat c0.toNat w1.toNat h1.toNat
          (BitVec.ofNat 32 (leNat (leBytes 4 key))) (BitVec.ofNat 32 (leNat (leBytes 4 mask))) cells
      else none := rfl

theorem parse_streamOpen (v : UnitId) (i p z : Byte) (a n : Nat) :
    parseUnitFields .streamOpen v ([i, p, z, 0] ++ leBytes 4 a ++ leBytes 4 n) =
      match index4 i, policyOf p with
      | some i, some p => some (.streamOpen v i p z.toNat (leNat (leBytes 4 a)) (leNat (leBytes 4 n)))
      | _, _ => none := rfl

/-- The body written from a request's fields is read as that request (11.2). -/
theorem parse_encode {r : Request} (h : r.wf = true) : parseRequest (encodeRequest r) = some r := by
  cases r with
  | channelOpen => exact parse_encode_plain rfl h
  | channelClose => exact parse_encode_plain rfl h
  | streamEnd => exact parse_encode_plain rfl h
  | streamAbort => exact parse_encode_plain rfl h
  | faultRead v => exact parse_encode_unit rfl h
  | faultClear v => exact parse_encode_unit rfl h
  | keep v => exact parse_encode_unit rfl h
  | modeRelease v => exact parse_encode_unit rfl h
  | block data =>
    rw [parse_encode_plain rfl h]
    simp only [Request.wf, Bool.and_eq_true, decide_eq_true_eq] at h
    exact if_pos h
  | itemRead v id =>
    rw [parse_encode_unit rfl h]
    exact congrArg (fun x => some (Request.itemRead v x)) (leNat_leBytes_word id)
  | routine v id arg =>
    rw [parse_encode_unit rfl h]
    simp only [Request.wf, decide_eq_true_eq] at h
    exact (parse_routine v id arg).trans (by rw [if_pos h, leNat_leBytes_word])
  | windowRead v i o n =>
    rw [parse_encode_unit rfl h]
    simp only [Request.wf, Bool.and_eq_true, decide_eq_true_eq] at h
    obtain ⟨ho, hn⟩ := h
    refine (parse_windowRead v _ o n).trans ?_
    rw [index4_byte, leNat_leBytes_of_lt_four ho, leNat_leBytes_of_lt_two hn]
    rfl
  | windowWrite v i o data =>
    rw [parse_encode_unit rfl h]
    simp only [Request.wf, Bool.and_eq_true, decide_eq_true_eq] at h
    obtain ⟨ho, hn⟩ := h
    refine (parse_windowWrite v _ o data.length data).trans ?_
    rw [if_pos (leNat_leBytes_of_lt_two (by omega)), index4_byte, leNat_leBytes_of_lt_four ho]
    rfl
  | mapRead v j r0 c0 w1 h1 =>
    rw [parse_encode_unit rfl h]
    simp only [Request.wf, Bool.and_eq_true, decide_eq_true_eq] at h
    obtain ⟨⟨⟨hr, hc⟩, hw⟩, hh⟩ := h
    refine (parse_mapRead v _ _ _ _ _).trans ?_
    rw [index4_byte, toNat_byte _ hr, toNat_byte _ hc, toNat_byte _ hw, toNat_byte _ hh]
    rfl
  | mapWrite v j r0 c0 w1 h1 key mask cells =>
    rw [parse_encode_unit rfl h]
    simp only [Request.wf, Bool.and_eq_true, decide_eq_true_eq] at h
    obtain ⟨⟨⟨⟨hr, hc⟩, hw⟩, hh⟩, hn⟩ := h
    refine (parse_mapWrite v _ _ _ _ _ (8 + cells.length) key.toNat mask.toNat cells).trans ?_
    rw [if_pos (leNat_leBytes_of_lt_two (by omega)), index4_byte, leNat_leBytes_long, leNat_leBytes_long, toNat_byte _ hr,
      toNat_byte _ hc, toNat_byte _ hw, toNat_byte _ hh]
    rfl
  | modeClaim v mode count =>
    rw [parse_encode_unit rfl h]
    simp only [Request.wf, decide_eq_true_eq] at h
    refine (parse_modeClaim v _ _).trans ?_
    rw [modeOf_modeCode, toNat_byte count h]
    rfl
  | streamOpen v i policy size start total =>
    rw [parse_encode_unit rfl h]
    simp only [Request.wf, Bool.and_eq_true, decide_eq_true_eq] at h
    obtain ⟨⟨hz, ha⟩, ht⟩ := h
    refine (parse_streamOpen v _ _ _ start total).trans ?_
    rw [index4_byte, policyOf_policyCode, toNat_byte size hz, leNat_leBytes_of_lt_four ha, leNat_leBytes_of_lt_four ht]

/-! ### Frames (R165) -/

/-- The CAN FD frame lengths, ascending. -/
def frameLengths : List Nat := [0, 1, 2, 3, 4, 5, 6, 7, 8, 12, 16, 20, 24, 32, 48, 64]

/-- The shortest CAN FD length that holds at most 64 bytes. -/
theorem canFdLength_shortest : ∀ n ≤ 64, n ≤ canFdLength n ∧ canFdLength n ∈ frameLengths ∧
    ∀ l ∈ frameLengths, n ≤ l → canFdLength n ≤ l := by decide

/-- A frame of at most 64 bytes is filled with 00h to the shortest CAN FD length. -/
theorem padFrame_shortest {bytes : List Byte} (h : bytes.length ≤ 64) : ∃ pad,
    padFrame bytes = bytes ++ List.replicate pad 0 ∧ bytes.length + pad ∈ frameLengths ∧
      ∀ l ∈ frameLengths, bytes.length ≤ l → bytes.length + pad ≤ l := by
  obtain ⟨hle, hmem, hmin⟩ := canFdLength_shortest _ h
  exact ⟨canFdLength bytes.length - bytes.length, rfl, by rwa [Nat.add_sub_of_le hle], by rwa [Nat.add_sub_of_le hle]⟩

theorem two_mul_bufBit (b : Buf) : 2 * bufBit b = if b = .y then 2 else 0 := by cases b <;> rfl

theorem leBytes_four_eq (n : Nat) : leBytes 4 n =
    [BitVec.ofNat 8 n, BitVec.ofNat 8 (n / 256), BitVec.ofNat 8 (n / 65536), BitVec.ofNat 8 (n / 16777216)] := by
  simp only [leBytes, Nat.div_div_eq_div_mul]

/-- Settles O12: requests by `parse_encode`, unit messages kind by kind, segments by the padding of their frame. -/
theorem requestBodiesReadBack : Obligations.RequestBodiesReadBack := by
  refine ⟨fun n => ⟨rfl, leBytes_four_eq n⟩, fun r h => parse_encode h, fun tag msg => ?_, fun id chan b body n => ?_⟩
  · intro laid
    cases msg with
    | modeEnter mode => cases mode <;> rfl
    | _ => rfl
  · intro lengths share header
    have short : (BitVec.ofNat 8 header :: (if n = 0 then BitVec.ofNat 8 body.length else 0) :: share).length ≤ 64 := by
      simp only [List.length_cons, share, List.length_take]
      omega
    obtain ⟨pad, frame, member, least⟩ := padFrame_shortest short
    have size : ∀ x y : Byte, (x :: y :: share).length = 2 + share.length := fun x y => by
      rw [List.length_cons, List.length_cons]
      omega
    rw [size] at member least
    refine ⟨rfl, pad, ?_, member, least⟩
    rw [← List.cons_append, ← List.cons_append, ← frame]
    unfold segmentFrame
    dsimp only
    rw [two_mul_bufBit]
    rfl

end Sys2Proof.Machine
end

section
/-! A refused request is answered only (R22, R39, R40), and what the channel engine does with a message (R70 to R72, R79, R83). -/

namespace Sys2Proof.Machine

/-! ### What a refusal records and reports (R39, R40) -/

/-- An answer to a request that was not admitted joins its queue, or is dropped and reported (R161). -/
theorem offerReply_own (x : Reply) (s : State) : offerReply x false s =
    if (repliesAt (chanPort x.chan) s).length < 12 then pushReply x s
    else report ⟨.replyDropped, some (chanPort x.chan), none, none⟩ s :=
  if_congr decide_eq_true_iff rfl rfl

theorem recordsRefusal_iff (st : Status) :
    recordsRefusal st = true ↔ st ∈ [.noGrant, .held, .interlock, .outOfWindow, .outOfMap] := by
  cases st <;> decide

theorem furtherEvent_eq (st : Status) : furtherEvent st =
    if st ∈ [.noGrant, .suspended, .budget] then some .refusedGrant
    else if st = .interlock then some .refusedInterlock
    else if st ∈ [.outOfWindow, .outOfMap] then some .refusedRange
    else none := by
  cases st <;> decide

/-- An occurrence of the admission carries the bus its unit is defined on before the refusal is recorded (R40). -/
theorem admissionReport_eq {s u : State} (h : s.units = u.units) (c : ChanId) (v : Option UnitId) (e : Event) :
    admissionReport c v e s = report ⟨e, some (chanPort c), v.bind fun w => unitBus w u, v⟩ s := by
  unfold admissionReport unitBus unitAt
  rw [h]

/-- The occurrence `e` of a request of channel `c` with body `body`, its unit on the bus it has in `u`. -/
def told (c : ChanId) (body : List Byte) (u : State) (e : Event) (x : State) : State :=
  report ⟨e, some (chanPort c), (bodyUnit body).bind fun w => unitBus w u, bodyUnit body⟩ x

/-- The refusal recorded, for the five statuses that are (R39). -/
def refusalRecorded (c : ChanId) (body : List Byte) (st : Status) (u : State) : State :=
  if st ∈ [.noGrant, .held, .interlock, .outOfWindow, .outOfMap] then
    writeRecord (some (chanPort c)) (some c) none (bodyUnit body) (.refusal st (body.headD 0)) u
  else u

theorem refusalRecorded_units (c : ChanId) (body : List Byte) (st : Status) (u : State) :
    (refusalRecorded c body st u).units = u.units := by
  unfold refusalRecorded
  split
  · exact writeRecord_units ..
  · rfl

theorem told_units (c : ChanId) (body : List Byte) (u : State) (e : Event) (x : State) :
    (told c body u e x).units = x.units :=
  report_units ..

/-- A refusal is recorded, reported, and reported again by its status, in this order (log 16). -/
theorem noteRefusal_eq (c : ChanId) (body : List Byte) (st : Status) (u : State) : noteRefusal c body st u =
    if st ∈ [.noGrant, .suspended, .budget] then
      told c body u .refusedGrant (told c body u .refused (refusalRecorded c body st u))
    else if st = .interlock then
      told c body u .refusedInterlock (told c body u .refused (refusalRecorded c body st u))
    else if st ∈ [.outOfWindow, .outOfMap] then
      told c body u .refusedRange (told c body u .refused (refusalRecorded c body st u))
    else told c body u .refused (refusalRecorded c body st u) := by
  have record : (if recordsRefusal st then
      writeChanRecord c none (bodyUnit body) (.refusal st (bodyKind body)) u else u) = refusalRecorded c body st u :=
    if_congr (recordsRefusal_iff st) rfl rfl
  have first : admissionReport c (bodyUnit body) .refused (refusalRecorded c body st u) =
      told c body u .refused (refusalRecorded c body st u) :=
    admissionReport_eq (refusalRecorded_units ..) ..
  have further : ∀ e, admissionReport c (bodyUnit body) e (told c body u .refused (refusalRecorded c body st u)) =
      told c body u e (told c body u .refused (refusalRecorded c body st u)) :=
    fun e => admissionReport_eq ((told_units ..).trans (refusalRecorded_units ..)) ..
  unfold noteRefusal
  dsimp only
  rw [record, first, furtherEvent_eq]
  split_ifs
  · exact further .refusedGrant
  · exact further .refusedInterlock
  · exact further .refusedRange
  · rfl

/-! ### The answer to a refused request (R22, R75) -/

theorem stateOfWork_eq (ch : Channel) : stateOfWork ch =
    if ch.state = .closed ∨ ch.state = .halted then ch.state
    else if ch.binding ≠ none then .streaming
    else if ch.active ≠ none ∨ ch.staged ≠ none then .busy else .idle := by
  unfold stateOfWork isWorking
  cases ch.state <;> simp [Option.isSome_iff_ne_none]

/-- The channel with a buffer freed, in the state of its work; CLOSED and HALTED stay (R69, R75). -/
theorem settleChan_freeBuffer (b : Buf) (ch : Channel) :
    settleChan (freeBuffer b ch) = { freeBuffer b ch with state := stateOfWork ch } := by
  cases b <;> rfl

/-- A refused request is noted and answered; its buffer is free and its channel in the state of its work. -/
theorem decideTaken_refused {c : ChanId} {body : List Byte} {st : Status} {u : State} (h : check c body u = .refused st)
    (b : Buf) : decideTaken c b body u =
      setChan c (settleChan (freeBuffer b (chanAt c u)))
        (offerReply { chan := c, buf := b, kind := body.headD 0, status := st, clamped := false, payload := [] } false
          (noteRefusal c body st u)) := by
  unfold decideTaken
  rw [h]
  dsimp only
  unfold answerTaken
  dsimp only
  have record : ∀ x : Reply, chanAt c (offerReply x false (noteRefusal c body st u)) = chanAt c u := fun x => by
    rw [offerReply_own]
    unfold chanAt
    split
    · rw [pushReply, setReplies_chans, noteRefusal_chans]
    · rw [report_chans, noteRefusal_chans]
  rw [record]
  rfl

/-- At an IDLE channel with room in its queue, the refused request leaves the channel as it was but for its mark. -/
theorem arrive_refused {k : ReqKind} {m : ReqMsg} {st : Status} {u : State} (hi : AtIdle m u)
    (hroom : HasRoom (chanPort m.chan) u) (hk : k ∉ [.channelOpen, .channelClose, .block, .streamEnd, .streamAbort])
    (hc : check m.chan (rowBody k m) u = .refused st) : arrive k m u =
      setChan m.chan (answeredChannel m u)
        (pushReply (requestReply m.chan m.buf k st false []) (noteRefusal m.chan (rowBody k m) st u)) := by
  rw [arrive_idle hi hk]
  unfold decideTaken
  rw [check_setChan, hc]
  dsimp only
  rw [noteRefusal_setChan]
  have room : HasRoom (chanPort m.chan) (noteRefusal m.chan (rowBody k m) st u) :=
    hasRoom_congr hroom (noteRefusal_replies ..)
  exact (answerTaken_room m.chan m.buf k st false [] false _ _ room).trans (by rw [answered_idle hi])

/-! ### A message at a channel -/

section Messages
variable {c : ChanId} {b : Buf} {body : List Byte} {u : State}

theorem needsStream_iff (k : Option ReqKind) :
    needsStream k = true ↔ k ∈ [some .block, some .streamEnd, some .streamAbort] := by
  rcases k with _ | k
  · decide
  · cases k <;> decide

theorem streamingTakes_iff (active : Option ActiveReq) (k : Option ReqKind) : streamingTakes active.isSome k = true ↔
    k ∈ [some .block, some .keep] ∨ (k ∈ [some .streamEnd, some .streamAbort, some .modeRelease] ∧ active = none) := by
  rcases k with _ | k
  · simp [streamingTakes]
  · cases k <;> simp [streamingTakes]

/-- Kinds other than CHANNEL OPEN and CHANNEL CLOSE go by the channel's state (R70). -/
theorem deliver_eq (ho : kindOf (body.headD 0) ≠ some .channelOpen) (hc : kindOf (body.headD 0) ≠ some .channelClose) :
    deliver c b body u = deliverOther c b body u := by
  unfold deliver bodyKind
  split
  · exact absurd ‹_› ho
  · exact absurd ‹_› hc
  · rfl

theorem deliverOther_closed (h : (chanAt c u).state = .closed) :
    deliverOther c b body u = answerOwn c b (bodyKind body) .channelClosed u := by
  unfold deliverOther
  rw [h]

theorem deliverOther_halted (h : (chanAt c u).state = .halted) :
    deliverOther c b body u = answerOwn c b (bodyKind body) .channelHalted u := by
  unfold deliverOther
  rw [h]

theorem deliverOther_working
    (h : (chanAt c u).state = .idle ∨ (chanAt c u).state = .busy ∨ (chanAt c u).state = .streaming) :
    deliverOther c b body u = deliverWorking c b body u := by
  unfold deliverOther
  rcases h with h | h | h
  · rw [h]
  · rw [h]
  · rw [h]

theorem deliverWorking_sequence (h : b ≠ (chanAt c u).expect) : deliverWorking c b body u =
    report ⟨.sequence, some (chanPort c), none, none⟩ (answerOwn c b (bodyKind body) .sequence u) :=
  if_pos h

theorem deliverWorking_notReady (h : b = (chanAt c u).expect) (hb : bufferAt b (chanAt c u) ≠ none) :
    deliverWorking c b body u = answerOwn c b (bodyKind body) .notReady u :=
  (if_neg (not_not.mpr h)).trans (if_pos (Option.isSome_iff_ne_none.mpr hb))

/-- The buffer test passed (R70). -/
theorem deliverWorking_passes (h : b = (chanAt c u).expect) (hb : bufferAt b (chanAt c u) = none) :
    deliverWorking c b body u = takeByState c b body u :=
  (if_neg (not_not.mpr h)).trans (if_neg fun some => Option.isSome_iff_ne_none.mp some hb)

/-! What a working channel does with a message that has passed (R71, R72). -/

theorem takeByState_wrongState (h : (chanAt c u).state = .idle ∨ (chanAt c u).state = .busy)
    (hk : needsStream (kindOf (bodyKind body)) = true) :
    takeByState c b body u = answerOwn c b (bodyKind body) .wrongState u := by
  unfold takeByState
  dsimp only
  rcases h with h | h
  · rw [h]
    exact if_pos hk
  · rw [h]
    exact if_pos hk

theorem takeByState_idle (h : (chanAt c u).state = .idle) (hk : ¬ needsStream (kindOf (bodyKind body)) = true) :
    takeByState c b body u = takeAndDecide c b body u := by
  unfold takeByState
  dsimp only
  rw [h]
  exact if_neg hk

theorem takeByState_busy (h : (chanAt c u).state = .busy) (hk : ¬ needsStream (kindOf (bodyKind body)) = true)
    (hs : (chanAt c u).staged = none) : takeByState c b body u = takeStaged c b body u := by
  unfold takeByState
  dsimp only
  rw [h, hs]
  exact (if_neg hk).trans (if_neg Bool.false_ne_true)

theorem takeByState_streaming_serves (h : (chanAt c u).state = .streaming)
    (hk : streamingTakes (chanAt c u).active.isSome (kindOf (bodyKind body)) = true) :
    takeByState c b body u = takeAndDecide c b body u := by
  unfold takeByState
  dsimp only
  rw [h]
  exact if_pos hk

theorem takeByState_streaming_wrongState (h : (chanAt c u).state = .streaming)
    (hk : ¬ streamingTakes (chanAt c u).active.isSome (kindOf (bodyKind body)) = true) :
    takeByState c b body u = answerOwn c b (bodyKind body) .wrongState u := by
  unfold takeByState
  dsimp only
  rw [h]
  exact if_neg hk

end Messages

/-- Settles O26: the refusal by `arrive_refused` and `decideTaken_refused`, the channel's own answers by its state. -/
theorem refusedRequestIsAnsweredOnly : Obligations.RefusedRequestIsAnsweredOnly := by
  unfold Obligations.RefusedRequestIsAnsweredOnly
  intro offered noted
  have noted_eq : ∀ c body st u, noteRefusal c body st u = noted c body st u := noteRefusal_eq
  refine ⟨fun k m st s u ht hi hroom hk hc => ?_, fun c b body st u hc => ?_, fun c b body u => ?_,
    fun k m s u ht => ?_⟩
  · rw [exec_row, running_at ht, arrive_refused hi hroom hk hc, noted_eq]
    rfl
  · intro ch
    rw [decideTaken_refused hc, settleChan_freeBuffer, stateOfWork_eq, noted_eq, offerReply_own]
  · intro k ch answered taken decided working passes forStream serves ho hc
    have own : ∀ st, answerOwn c b (bodyKind body) st u = answered st := fun st => offerReply_own _ u
    have needs_iff := needsStream_iff (kindOf (bodyKind body))
    have takes_iff := streamingTakes_iff ch.active (kindOf (bodyKind body))
    have taken_at : ∀ (_ : working) (_ : passes), deliver c b body u = takeByState c b body u :=
      fun hw ⟨he, hb⟩ => by rw [deliver_eq ho hc, deliverOther_working hw, deliverWorking_passes he hb]
    refine ⟨fun h => ?_, fun h => ?_, fun hw he => ?_, fun hw he hb => ?_, fun hp h hs => ?_, fun hp h hs => ?_,
      fun hp h hs hg => ?_, fun hp h hs => ?_, fun hp h hs => ?_⟩
    · rw [deliver_eq ho hc, deliverOther_closed h, own]
    · rw [deliver_eq ho hc, deliverOther_halted h, own]
    · rw [deliver_eq ho hc, deliverOther_working hw, deliverWorking_sequence he, own]
    · rw [deliver_eq ho hc, deliverOther_working hw, deliverWorking_notReady he hb, own]
    · rw [taken_at (h.imp_right Or.inl) hp, takeByState_wrongState h (needs_iff.mpr hs), own]
    · rw [taken_at (Or.inl h) hp, takeByState_idle h (mt needs_iff.mp hs)]
      rfl
    · rw [taken_at (Or.inr (Or.inl h)) hp, takeByState_busy h (mt needs_iff.mp hs) hg]
      rfl
    · rw [taken_at (Or.inr (Or.inr h)) hp, takeByState_streaming_serves h (takes_iff.mpr hs)]
      rfl
    · rw [taken_at (Or.inr (Or.inr h)) hp, takeByState_streaming_wrongState h (mt takes_iff.mp hs), own]
  · rw [exec_row, running_at ht]
    rfl

end Sys2Proof.Machine
end

section
/-! The filtered lines and their edges (R41 to R44): a fall and a rise of IGN (R131, R132), a rise of MOVE and RUN (R42, R43). -/

namespace Sys2Proof.Machine

/-! ### Raw changes and the filter timer (R41) -/

section Filter
variable {l : Line} {level : Bool} {picks : List Nat} {s : State}

theorem rawChange_same (h : s.raw.get l = level) : rawChange l level s = s := if_pos h

theorem rawChange_new (h : s.raw.get l ≠ level) : rawChange l level s = { s with
    raw := s.raw.set l level
    filterTimers := s.filterTimers.set l (if level = s.filtered.get l then none else some 50) } := if_neg h

theorem filterExpires_stopped (h : s.filterTimers.get l = none) : filterExpires l picks s = s := by
  unfold filterExpires
  rw [h]

/-- The expiry of a running filter timer on a line whose raw level differs is an edge event. -/
theorem filterExpires_edge (ht : s.filterTimers.get l ≠ none) (hr : s.raw.get l = level) (hf : s.filtered.get l ≠ level) :
    filterExpires l picks s = edge l level picks (takeLevel l level s) := by
  obtain ⟨n, hn⟩ := Option.ne_none_iff_exists'.mp ht
  unfold filterExpires
  rw [hn, hr]
  exact if_neg hf.symm

/-- A fall of MOVE or RUN has no consequences (R42, R43). -/
theorem edge_fall_still (h : l ≠ .ign) : edge l false picks s = s := by
  cases l with
  | ign => exact absurd rfl h
  | run => rfl
  | move => rfl

end Filter

theorem exec_rawLineChange_reset {s : State} (h : s.inReset = true) (l : Line) (level : Bool) :
    exec (.rawLineChange l level) s = .next { s with raw := s.raw.set l level } :=
  if_pos h

theorem exec_rawLineChange {s u : State} (h : TakenAt s u) (l : Line) (level : Bool) :
    exec (.rawLineChange l level) s = .next (rawChange l level u) := by
  obtain ⟨running, rfl⟩ := h
  exact if_neg (by rw [running]; exact Bool.false_ne_true)

theorem exec_filterTimerExpiry {s u : State} (h : TakenAt s u) (l : Line) (race : List Nat) :
    exec (.filterTimerExpiry l race) s = .next (filterExpires l race u) :=
  running_at h

/-! ### A rise of IGN (R132) -/

theorem wakeBus_frame (b : BusId) (s : State) : wakeBus b s = { s with buses := (wakeBus b s).buses } := by
  unfold wakeBus
  split
  · rfl
  · rfl

theorem busAt_wakeBus (b : BusId) (s : State) : busAt b (wakeBus b s) =
    { busAt b s with state := if (busAt b s).state = .asleep then .active else (busAt b s).state } := by
  unfold wakeBus
  split
  · exact busAt_setBus ..
  · rfl

theorem busAt_wakeBus_other {a b : BusId} (h : a ≠ b) (s : State) : busAt a (wakeBus b s) = busAt a s := by
  unfold wakeBus
  split
  · exact busAt_setBus_other _ s h
  · rfl

theorem busAt_ignRises (b : BusId) (s : State) : busAt b (ignRises s) =
    { busAt b s with state := if (busAt b s).state = .asleep then .active else (busAt b s).state } := by
  unfold ignRises
  cases b with
  | ub0 => rw [busAt_wakeBus_other (by decide), busAt_wakeBus]
  | ub1 => rw [busAt_wakeBus, busAt_wakeBus_other (by decide)]

theorem ignRises_frame (s : State) : ignRises s = { s with buses := (ignRises s).buses } := by
  unfold ignRises
  rw [wakeBus_frame .ub1, wakeBus_frame .ub0]

/-! ### A bus falls asleep (R131) -/

/-- The record of a bus after a fall of IGN. -/
def sleptBus (x : Bus) : Bus :=
  match x.state with
  | .active => { x with queue := [], tx := none, state := .asleep }
  | .off => { x with state := .asleep, recovery := none }
  | .asleep => x

theorem busAt_sleepBus (b : BusId) (s : State) : busAt b (sleepBus b s) = sleptBus (busAt b s) := by
  unfold sleepBus sleptBus
  cases (busAt b s).state with
  | active =>
    have emptied : busAt b (emptyBus b s) = { busAt b s with queue := [], tx := none } := busAt_setBus ..
    dsimp only
    rw [busAt_setBus, emptied]
  | off => exact busAt_setBus ..
  | asleep => rfl

theorem busAt_sleepBus_other {a b : BusId} (h : a ≠ b) (s : State) : busAt a (sleepBus b s) = busAt a s := by
  unfold sleepBus
  split
  · exact (busAt_setBus_other _ _ h).trans (busAt_setBus_other _ s h)
  · exact busAt_setBus_other _ s h
  · rfl

theorem unitAt_emptyBus (b : BusId) (w : UnitId) (s : State) :
    unitAt w (emptyBus b s) = if unitBus w s = some b then dropReplies (unitAt w s) else unitAt w s :=
  (Vector.get_ofFn _ w).trans (if_congr (onBus_iff b w s) rfl rfl)

theorem unitAt_sleepBus_active {b : BusId} {w : UnitId} {s : State} (h : (busAt b s).state = .active)
    (hw : unitBus w s = some b) : unitAt w (sleepBus b s) = dropReplies (unitAt w s) := by
  unfold sleepBus
  rw [h]
  exact (unitAt_emptyBus b w s).trans (if_pos hw)

theorem unitAt_sleepBus_other {b : BusId} {w : UnitId} {s : State} (h : (busAt b s).state = .active → unitBus w s ≠ some b) :
    unitAt w (sleepBus b s) = unitAt w s := by
  unfold sleepBus
  split
  · rename_i hactive
    exact (unitAt_emptyBus b w s).trans (if_neg (h hactive))
  · rfl
  · rfl

theorem unitBus_sleepBus (b : BusId) (w : UnitId) (s : State) : unitBus w (sleepBus b s) = unitBus w s := by
  unfold unitBus
  by_cases h : (busAt b s).state = .active ∧ unitBus w s = some b
  · obtain ⟨hactive, hw⟩ := h
    rw [unitAt_sleepBus_active hactive hw]
    rfl
  · rw [unitAt_sleepBus_other fun hactive hw => h ⟨hactive, hw⟩]

theorem emptyBus_frame (b : BusId) (s : State) : ∃ us bs, emptyBus b s = { s with units := us, buses := bs } :=
  ⟨_, _, rfl⟩

theorem sleepBus_frame (b : BusId) (s : State) : ∃ us bs, sleepBus b s = { s with units := us, buses := bs } := by
  unfold sleepBus
  split
  · obtain ⟨us, bs, frame⟩ := emptyBus_frame b s
    dsimp only
    rw [frame]
    exact ⟨_, _, rfl⟩
  · exact ⟨_, _, rfl⟩
  · exact ⟨s.units, s.buses, rfl⟩

/-- Both buses asleep, before the work that ends is answered. -/
def slept (s : State) : State := sleepBus .ub1 (sleepBus .ub0 s)

theorem slept_frame (s : State) : ∃ us bs, slept s = { s with units := us, buses := bs } := by
  unfold slept
  obtain ⟨us, bs, first⟩ := sleepBus_frame .ub0 s
  obtain ⟨us', bs', second⟩ := sleepBus_frame .ub1 (sleepBus .ub0 s)
  exact ⟨us', bs', by rw [second, first]⟩

theorem busAt_slept (b : BusId) (s : State) : busAt b (slept s) = sleptBus (busAt b s) := by
  unfold slept
  cases b with
  | ub0 => rw [busAt_sleepBus_other (by decide), busAt_sleepBus]
  | ub1 => rw [busAt_sleepBus, busAt_sleepBus_other (by decide)]

theorem unitBus_slept (w : UnitId) (s : State) : unitBus w (slept s) = unitBus w s := by
  unfold slept
  rw [unitBus_sleepBus, unitBus_sleepBus]

theorem unitAt_slept_active {b : BusId} {w : UnitId} {s : State} (h : (busAt b s).state = .active)
    (hw : unitBus w s = some b) : unitAt w (slept s) = dropReplies (unitAt w s) := by
  unfold slept
  cases b with
  | ub0 =>
    rw [unitAt_sleepBus_other fun _ => by rw [unitBus_sleepBus, hw]; decide, unitAt_sleepBus_active h hw]
  | ub1 =>
    rw [unitAt_sleepBus_active (by rwa [busAt_sleepBus_other (by decide)]) (by rwa [unitBus_sleepBus]),
      unitAt_sleepBus_other fun _ => by rw [hw]; decide]

theorem unitAt_slept_other {b : BusId} {w : UnitId} {s : State} (h : (busAt b s).state ≠ .active)
    (hw : unitBus w s = some b) : unitAt w (slept s) = unitAt w s := by
  have still : ∀ a, (busAt a s).state = .active → unitBus w s ≠ some a := by
    rintro a hactive ha
    cases hw.symm.trans ha
    exact h hactive
  unfold slept
  rw [unitAt_sleepBus_other fun hactive => by
      rw [unitBus_sleepBus]
      exact still _ (by rwa [busAt_sleepBus_other (by decide)] at hactive),
    unitAt_sleepBus_other (still _)]

/-! ### The consequences of a bus leaving ACTIVE (R66, R97, R114) -/

/-- The record of a unit whose bus leaves ACTIVE: its entries are gone, and its claim, if it was not FREE. -/
def busLeftUnit (un : UnitRec) : UnitRec :=
  if un.claim.state = .free then { un with out := none, wait := [], awaited := none, reasm := none }
  else busEndedUnit un

theorem busLeftUnit_free {un : UnitRec} (h : un.claim.state = .free) :
    busLeftUnit un = { un with out := none, wait := [], awaited := none, reasm := none } := if_pos h

theorem busLeftUnit_claimed {un : UnitRec} (h : un.claim.state ≠ .free) : busLeftUnit un = busEndedUnit un := if_neg h

theorem busLeftUnit_entries (un : UnitRec) :
    (busLeftUnit un).out = none ∧ (busLeftUnit un).wait = [] ∧ (busLeftUnit un).awaited = none := by
  unfold busLeftUnit
  split
  · exact ⟨rfl, rfl, rfl⟩
  · exact ⟨rfl, rfl, rfl⟩

theorem busLeftUnit_idem (un : UnitRec) : busLeftUnit (busLeftUnit un) = busLeftUnit un := by
  by_cases h : un.claim.state = .free
  · rw [busLeftUnit_free h]
    exact if_pos h
  · rw [busLeftUnit_claimed h]
    exact if_pos rfl

theorem busLeftUnit_dropReplies (un : UnitRec) : busLeftUnit (dropReplies un) = busLeftUnit un := rfl

theorem units_answerRelease (cl : Claim) (s : State) : (answerRelease cl s).units = s.units := by
  unfold answerRelease
  split
  · exact completeActive_units ..
  · rfl

theorem units_endUnitWork (w : UnitId) (r : ClaimReason) (st : Status) (s : State) :
    (endUnitWork w r st s).units = (setUnit w (busLeftUnit (unitAt w s)) s).units := by
  unfold endUnitWork
  dsimp only
  have delivered := units_foldl (fun s e => deliverResult w e (.ended st) s) (fun v e => units_deliver_ended w e st v)
    ((unitAt w s).out.toList ++ (unitAt w s).wait)
    (setUnit w { unitAt w s with out := none, wait := [], awaited := none, reasm := none } s)
  have unit := (unitAt_congr (v := w) delivered).trans (unitAt_setUnit ..)
  split
  · rename_i hfree
    rw [unit] at hfree
    rw [delivered, busLeftUnit_free (un := unitAt w s) hfree]
  · rename_i hclaimed
    rw [unit] at hclaimed
    rw [units_answerRelease, busLeftUnit_claimed (un := unitAt w s) hclaimed]
    unfold writeClaimEnd
    rw [writeRecord_units, freeClaim, setUnit_units, delivered, unit, setUnit_units, setUnit_units, Vector.set_set]
    rfl

theorem mem_busConsequences {q : Consequence} {b : BusId} {r : ClaimReason} {st : Status} :
    q ∈ busConsequences b r st ↔ (∃ w, q = .unitBusEnd w b r st) ∨ (∃ k, q = .streamBusEnd k b) ∨ q = .mapBusEnd b st := by
  simp only [busConsequences, allUnits, allCtxs, List.mem_append, List.mem_map, List.mem_finRange, true_and,
    List.mem_singleton, or_assoc, eq_comm]

theorem units_streamBusEnd (k : CtxId) (b : BusId) (s : State) : (runConsequence (.streamBusEnd k b) s).units = s.units := by
  unfold runConsequence
  dsimp only
  split
  · exact units_concludeStream ..
  · rfl

/-- What a bus's end does to a unit's record: nothing, or what R66 says where it reaches the unit itself. -/
theorem busConsequence_unit {q : Consequence} {b : BusId} {r : ClaimReason} {st : Status} (hq : q ∈ busConsequences b r st)
    (w : UnitId) (s : State) : unitAt w (runConsequence q s) = unitAt w s ∨
      (unitBus w s = some b ∧ unitAt w (runConsequence q s) = busLeftUnit (unitAt w s)) := by
  rcases mem_busConsequences.mp hq with ⟨x, rfl⟩ | ⟨k, rfl⟩ | rfl
  · unfold runConsequence
    dsimp only
    split
    · rename_i hb
      by_cases hx : x = w
      · subst hx
        exact Or.inr ⟨hb, (unitAt_congr (units_endUnitWork ..)).trans (unitAt_setUnit ..)⟩
      · exact Or.inl ((unitAt_congr (units_endUnitWork ..)).trans (unitAt_setUnit_ne _ _ _ _ hx))
    · exact Or.inl rfl
  · exact Or.inl (unitAt_congr (units_streamBusEnd k b s))
  · exact Or.inl (unitAt_congr (units_endJobs ..))

theorem unitBusEnd_reaches {w : UnitId} {b : BusId} {s : State} (h : unitBus w s = some b) (r : ClaimReason) (st : Status) :
    unitAt w (runConsequence (.unitBusEnd w b r st) s) = busLeftUnit (unitAt w s) := by
  unfold runConsequence
  dsimp only
  rw [if_pos h]
  exact (unitAt_congr (units_endUnitWork ..)).trans (unitAt_setUnit ..)

theorem buses_busConsequence {q : Consequence} {b : BusId} {r : ClaimReason} {st : Status} (hq : q ∈ busConsequences b r st)
    (s : State) : (runConsequence q s).buses = s.buses := by
  rcases mem_busConsequences.mp hq with ⟨w, rfl⟩ | ⟨k, rfl⟩ | rfl
  · unfold runConsequence
    dsimp only
    split
    · exact (keepsBuses_endUnitWork ..).1
    · rfl
  · unfold runConsequence
    dsimp only
    split
    · exact (keepsBuses_concludeStream ..).1
    · rfl
  · exact (keepsBuses_endJobs ..).1

/-! ### The work of a bus is gone -/

theorem unitBus_winds {s t : State} (h : Winds s t) (w : UnitId) : unitBus w t = unitBus w s := by
  unfold unitBus
  rw [h.defs]

/-- The stream in context `k`, if it stands on bus `b`, is CONCLUDED. -/
def StreamOffBus (b : BusId) (k : CtxId) (v : State) : Prop :=
  ∀ x, streamAt k v = some x → unitBus x.unit v = some b → x.state = .concluded

theorem streamOffBus_winds {b : BusId} {k : CtxId} {s t : State} (h : Winds s t) (hs : StreamOffBus b k s) :
    StreamOffBus b k t := by
  intro y hy hb
  obtain ⟨x, hx, -, unit, -, later⟩ := h.streams k y hy
  rw [unitBus_winds h, unit] at hb
  obtain ⟨concluded, -⟩ := later (hs x hx hb)
  exact concluded

theorem streamBusEnd_off (k : CtxId) (b : BusId) (v : State) : StreamOffBus b k (runConsequence (.streamBusEnd k b) v) := by
  unfold runConsequence
  dsimp only
  split
  · exact fun x hx _ => concludeStream_concludes k _ v x hx
  · rename_i hno
    intro x hx hb
    exact absurd (by unfold streamHas; rw [hx]; exact beq_iff_eq.mpr hb) hno

/-- No map job stands on bus `b`. -/
def JobsOffBus (b : BusId) (v : State) : Prop := ∀ j ∈ jobsOf v.map, unitBus j.unit v ≠ some b

theorem jobsOffBus_winds {b : BusId} {s t : State} (h : Winds s t) (hs : JobsOffBus b s) : JobsOffBus b t := by
  intro j hj
  obtain ⟨i, hi, -, -, unit, -⟩ := h.jobs j hj
  rw [unitBus_winds h, unit]
  exact hs i hi

theorem mapBusEnd_off (b : BusId) (st : Status) (v : State) : JobsOffBus b (runConsequence (.mapBusEnd b st) v) := by
  intro j hj
  rw [unitBus_winds (winds_runConsequence (Winds.refl v) _)]
  unfold runConsequence at hj
  rw [jobsOf_endJobs, List.mem_filter] at hj
  obtain ⟨-, hb⟩ := hj
  simpa using hb

/-- Consequences that hold those of a bus leaving ACTIVE leave no work on it (R97, R114). -/
theorem busEnd_nothingOnBus {b : BusId} {r : ClaimReason} {st : Status} {all : List Consequence}
    (h : ∀ q ∈ busConsequences b r st, q ∈ all) (picks : List Nat) (s : State) :
    NothingOnBus b (runAll picks all s) where
  streams k := runAll_reaches (P := StreamOffBus b k) (.streamBusEnd k b) (streamBusEnd_off k b)
    (fun _ _ => streamOffBus_winds) _ _ (h _ (mem_busConsequences.mpr (Or.inr (Or.inl ⟨k, rfl⟩)))) s
  jobs := runAll_reaches (P := JobsOffBus b) (.mapBusEnd b st) (mapBusEnd_off b st)
    (fun _ _ => jobsOffBus_winds) _ _ (h _ (mem_busConsequences.mpr (Or.inr (Or.inr rfl)))) s

/-! ### A fall of IGN (R44, R131) -/

theorem mem_sleepConsequences {q : Consequence} {s : State} : q ∈ sleepConsequences s ↔
    ∃ b, (busAt b s).state = .active ∧ q ∈ busConsequences b .ignition .unitAsleep := by
  unfold sleepConsequences
  rw [List.mem_append]
  constructor
  · rintro (hq | hq)
    · split at hq
      · exact ⟨.ub0, ‹_›, hq⟩
      · cases hq
    · split at hq
      · exact ⟨.ub1, ‹_›, hq⟩
      · cases hq
  · rintro ⟨b, hactive, hq⟩
    cases b with
    | ub0 => exact Or.inl (by rwa [if_pos hactive])
    | ub1 => exact Or.inr (by rwa [if_pos hactive])

theorem winds_ignFalls (picks : List Nat) (s : State) : Winds (slept s) (ignFalls picks s) :=
  winds_runAll (Winds.refl _) _ _

theorem busAt_ignFalls (b : BusId) (picks : List Nat) (s : State) : busAt b (ignFalls picks s) = sleptBus (busAt b s) := by
  have kept : (ignFalls picks s).buses = (slept s).buses :=
    runAll_keeps (P := fun v => v.buses = (slept s).buses) _ (fun q hq v hv => by
      obtain ⟨b, -, hb⟩ := mem_sleepConsequences.mp hq
      rw [buses_busConsequence hb, hv]) picks _ rfl
  unfold busAt
  rw [kept]
  exact busAt_slept b s

/-- A unit of a bus that was not ACTIVE keeps its record. -/
theorem unitAt_ignFalls_other {b : BusId} {w : UnitId} {s : State} (h : (busAt b s).state ≠ .active)
    (hw : unitBus w s = some b) (picks : List Nat) : unitAt w (ignFalls picks s) = unitAt w s := by
  refine runAll_keeps (P := fun v => unitAt w v = unitAt w s) _ (fun q hq v hv => ?_) picks _ (unitAt_slept_other h hw)
  obtain ⟨a, hactive, ha⟩ := mem_sleepConsequences.mp hq
  rcases busConsequence_unit ha w v with same | ⟨hb, -⟩
  · exact same.trans hv
  · have : unitBus w s = some a := by rw [← hb]; unfold unitBus; rw [hv]
    cases hw.symm.trans this
    exact absurd hactive h

/-- A unit of a bus that was ACTIVE ends as R66 says, whatever the order: each consequence leaves `busLeftUnit` of its record,
and the one that reaches the unit brings it there. -/
theorem unitAt_ignFalls_active {b : BusId} {w : UnitId} {s : State} (h : (busAt b s).state = .active)
    (hw : unitBus w s = some b) (picks : List Nat) : unitAt w (ignFalls picks s) = busLeftUnit (unitAt w s) := by
  have goal : busLeftUnit (unitAt w (ignFalls picks s)) = busLeftUnit (unitAt w s) := by
    refine runAll_keeps (P := fun v => busLeftUnit (unitAt w v) = busLeftUnit (unitAt w s)) _ (fun q hq v hv => ?_) picks (slept s)
      (by rw [unitAt_slept_active h hw, busLeftUnit_dropReplies])
    obtain ⟨a, -, ha⟩ := mem_sleepConsequences.mp hq
    rcases busConsequence_unit ha w v with same | ⟨-, left⟩
    · rw [same, hv]
    · rw [left, busLeftUnit_idem, hv]
  have arrived : unitBus w (ignFalls picks s) = some b →
      busLeftUnit (unitAt w (ignFalls picks s)) = unitAt w (ignFalls picks s) := by
    refine runAll_reaches_kept (P := fun v => unitBus w v = some b → busLeftUnit (unitAt w v) = unitAt w v)
      (.unitBusEnd w b .ignition .unitAsleep) _
      (mem_sleepConsequences.mpr ⟨b, h, mem_busConsequences.mpr (Or.inl ⟨w, rfl⟩)⟩) (fun v hv => ?_)
      (fun q hq v hv hb => ?_) picks _
    · rw [unitBus_winds (winds_runConsequence (Winds.refl v) _)] at hv
      rw [unitBusEnd_reaches hv, busLeftUnit_idem]
    · rw [unitBus_winds (winds_runConsequence (Winds.refl v) _)] at hb
      obtain ⟨a, -, ha⟩ := mem_sleepConsequences.mp hq
      rcases busConsequence_unit ha w v with same | ⟨-, left⟩
      · rw [same, hv hb]
      · rw [left, busLeftUnit_idem]
  rw [← goal, arrived (by rw [unitBus_winds (winds_ignFalls picks s), unitBus_slept, hw])]

/-- Settles O52, by the edge of the line that has taken its level. -/
theorem linesAreFilteredAndIgnitionSleeps : Obligations.LinesAreFilteredAndIgnitionSleeps := by
  intro l level race s u
  refine ⟨fun h => exec_rawLineChange_reset h l level, fun ht => ?_⟩
  intro taken rising falling
  have expiry := exec_filterTimerExpiry ht l race
  have fall : falling → exec (.filterTimerExpiry l race) s = .next (edge l false race taken) := by
    rintro ⟨htimer, hraw, hfiltered⟩
    rw [expiry, filterExpires_edge htimer hraw (by rw [hfiltered]; decide)]
    simp only [taken, takeLevel, hraw]
  have rise : rising → exec (.filterTimerExpiry l race) s = .next (edge l true race taken) := by
    rintro ⟨htimer, hraw, hfiltered⟩
    rw [expiry, filterExpires_edge htimer hraw (by rw [hfiltered]; decide)]
    simp only [taken, takeLevel, hraw]
  refine ⟨fun h => ?_, fun h => ?_, fun h => ?_, fun hf hl => ?_, fun hr hl => ?_, fun hf hl => ?_⟩
  · rw [exec_rawLineChange ht, rawChange_same h]
  · rw [exec_rawLineChange ht, rawChange_new h]
  · rw [expiry, filterExpires_stopped h]
  · rw [fall hf, edge_fall_still hl]
  · subst hl
    exact ⟨_, rise hr, fun b => busAt_ignRises b taken, ignRises_frame taken⟩
  · subst hl
    refine ⟨_, fall hf, ?_⟩
    have winds : Winds (slept taken) (edge .ign false race taken) := winds_ignFalls race taken
    obtain ⟨us, bs, frame⟩ := slept_frame taken
    refine ⟨by rw [winds.filtered, frame], by rw [winds.filterTimers, frame], by rw [winds.grants, frame],
      by rw [winds.spt, frame], fun b => ?_⟩
    have bus : busAt b (edge .ign false race taken) = sleptBus (busAt b u) := busAt_ignFalls b race taken
    rw [bus]
    refine ⟨?_, ?_, fun hactive => ?_, fun hoff => ?_, fun w hw => ⟨fun hactive => ?_, fun hidle => ?_⟩⟩
    · unfold sleptBus
      cases h : (busAt b u).state with
      | active => rfl
      | off => rfl
      | asleep => exact h
    · unfold sleptBus
      cases (busAt b u).state <;> rfl
    · unfold sleptBus
      rw [hactive]
      exact ⟨rfl, rfl, busEnd_nothingOnBus (fun q hq => mem_sleepConsequences.mpr ⟨b, hactive, hq⟩) race _⟩
    · unfold sleptBus
      rw [hoff]
    · have left : unitAt w (edge .ign false race taken) = busLeftUnit (unitAt w u) :=
        unitAt_ignFalls_active (s := taken) hactive hw race
      rw [left]
      obtain ⟨out, wait, awaited⟩ := busLeftUnit_entries (unitAt w u)
      exact ⟨out, wait, awaited, busLeftUnit_claimed⟩
    · exact unitAt_ignFalls_other (s := taken) hidle hw race

end Sys2Proof.Machine
end

section
/-! A rise of MOVE or RUN (R42, R43, R113): whatever the order of its consequences, what the edge withdraws is gone. -/

namespace Sys2Proof.Machine

/-! ### Entries withdrawn from a unit (R53) -/

theorem unitAt_removeWaiting (w : UnitId) (p : Entry → Bool) (st : Status) (s : State) :
    unitAt w (removeWaiting w p st s) = { unitAt w s with wait := (unitAt w s).wait.filter fun e => !p e } :=
  (unitAt_congr (units_foldl _ (fun v e => units_deliver_ended w e st v) _ _)).trans (unitAt_setUnit ..)

theorem unitAt_completeOut {w : UnitId} {s : State} {e : Entry} (h : (unitAt w s).out = some e) (st : Status) :
    unitAt w (completeOut w (.ended st) s) = { unitAt w s with out := none, awaited := none } := by
  unfold completeOut
  rw [h]
  dsimp only
  rw [unitAt_setUnit, unitAt_congr (units_deliver_ended ..)]

/-- After a withdrawal no entry for which `p` holds is left that has not been begun. -/
theorem noneUnbegun_withdrawEntries (w : UnitId) (p : Entry → Bool) (st : Status) (s : State) :
    NoneUnbegun p w (withdrawEntries w p st s) := by
  unfold withdrawEntries
  have waiting : ∀ e ∈ (unitAt w (removeWaiting w p st s)).wait, p e = false := by
    intro e he
    rw [unitAt_removeWaiting] at he
    simpa using (List.mem_filter.mp he).2
  generalize removeWaiting w p st s = t at waiting
  unfold withdrawOut
  cases hout : (unitAt w t).out with
  | none => exact ⟨waiting, fun e he => by rw [hout] at he; cases he⟩
  | some e =>
    dsimp only
    split
    · have same : unitAt w (unqueue w t) = unitAt w t := unitAt_congr (unitOnly_unqueue w t)
      have gone := unitAt_completeOut (w := w) (s := unqueue w t) (by rw [same, hout]) st
      unfold NoneUnbegun
      rw [gone, same]
      exact ⟨waiting, fun e he => by cases he⟩
    · rename_i kept
      refine ⟨waiting, fun x hx hp => ?_⟩
      cases hout.symm.trans hx
      simpa [hp] using kept

/-- Where entries only go or are base requests, no unbegun entry comes back. -/
theorem noneUnbegun_winnow {p : Entry → Bool} {w : UnitId} {s t : State} (h : Winnow s t) (hbase : p baseEntry = false)
    (hs : NoneUnbegun p w s) : NoneUnbegun p w t := by
  obtain ⟨waiting, outstanding⟩ := hs
  refine ⟨fun e he => ?_, fun e he hp => ?_⟩
  · rcases h.wait w e he with old | rfl
    · exact waiting e old
    · exact hbase
  · rcases h.out w with ⟨sameOut, sameAwaited⟩ | gone | based
    · rw [isBegun_winnow h sameAwaited]
      exact outstanding e (sameOut.symm.trans he) hp
    · rw [gone] at he
      cases he
    · rw [based] at he
      cases he
      rw [hbase] at hp
      cases hp

/-! ### What each consequence of the rise ends -/

theorem canLeave_of_flashBound {cl : Claim} (h : flashBound cl = true) : canLeave cl = true := by
  unfold flashBound at h
  unfold canLeave
  cases hs : cl.state <;> simp_all

/-- The claim of unit `w` is neither FLASH nor bound for it. -/
def NotFlashBound (w : UnitId) (v : State) : Prop := flashBound (unitAt w v).claim = false

theorem notFlashBound_winds {w : UnitId} {s t : State} (h : Winds s t) (hs : NotFlashBound w s) : NotFlashBound w t := by
  unfold NotFlashBound
  by_contra hf
  rw [Bool.not_eq_false] at hf
  rw [h.claims w (canLeave_of_flashBound hf), hs] at hf
  cases hf

theorem interlockClaim_notFlashBound (w : UnitId) (v : State) : NotFlashBound w (runConsequence (.interlockClaim w) v) := by
  unfold runConsequence NotFlashBound
  dsimp only
  split
  · by_contra hf
    rw [Bool.not_eq_false] at hf
    exact Bool.false_ne_true ((canLeave_leaveClaim w .interlock v).symm.trans (canLeave_of_flashBound hf))
  · exact Bool.not_eq_true _ ▸ ‹_›

theorem isLive_winds {s t : State} (h : Winds s t) (w : UnitId) (i : Fin 4) : isLive w i t = isLive w i s := by
  unfold isLive windowAt
  rw [h.defs]

/-- Every WRITE job stands on a LIVE window. -/
def WritesLive (v : State) : Prop := ∀ j ∈ jobsOf v.map, j.kind = .write → isLive j.unit j.window v = true

theorem writesLive_winds {s t : State} (h : Winds s t) (hs : WritesLive s) : WritesLive t := by
  intro j hj hk
  obtain ⟨i, hi, kind, -, unit, window, -⟩ := h.jobs j hj
  rw [isLive_winds h, unit, window]
  exact hs i hi (kind ▸ hk)

theorem mapRun_writesLive (v : State) : WritesLive (runConsequence .mapRun v) := by
  intro j hj hk
  rw [isLive_winds (winds_runConsequence (Winds.refl v) _)]
  unfold runConsequence at hj
  rw [jobsOf_endJobs, List.mem_filter] at hj
  simpa [hk] using hj.2

theorem mapMove_noWrites (v : State) : JobsOver (fun j => j.kind = .write) (runConsequence .mapMove v) := by
  unfold runConsequence
  intro j hj hk
  rw [jobsOf_endJobs, List.mem_filter] at hj
  simp [hk] at hj

theorem moveWithdraws_eq (e : Entry) : moveWithdraws e = match e.msg with
    | .faultErase => true
    | .routineRun _ _ => true
    | .memoryStore _ _ _ => true
    | _ => false := by
  unfold moveWithdraws isActuation isStore
  cases e.msg <;> rfl

theorem runWithdraws_eq (w : UnitId) (s : State) (e : Entry) : runWithdraws w s e = match e.msg with
    | .memoryStore _ _ _ =>
      (match e.window with
        | some i => !isLive w i s
        | none => true)
    | .modeEnter .flash => true
    | _ => false := by
  unfold runWithdraws storesToStill entersFlash isStore
  cases e.msg with
  | memoryStore addr data program => cases e.window <;> simp
  | modeEnter mode => cases mode <;> rfl
  | _ => rfl

/-! ### The whole edge -/

section Edge
variable {all : List Consequence} (picks : List Nat) (s : State)

theorem rise_notFlashBound (w : UnitId) (h : .interlockClaim w ∈ all) : NotFlashBound w (runAll picks all s) :=
  runAll_reaches (P := NotFlashBound w) _ (interlockClaim_notFlashBound w) (fun _ _ => notFlashBound_winds) _ _ h s

theorem rise_concluded (k : CtxId) (h : .streamInterlock k ∈ all) {x : Stream}
    (hx : streamAt k (runAll picks all s) = some x) : x.state = .concluded :=
  runAll_reaches (P := StreamsOver (fun _ => True) k) (.streamInterlock k)
    (fun v x hx _ => concludeStream_concludes k .aborted v x hx)
    (fun _ _ => streamsOver_winds fun _ _ _ => id) _ _ h s x hx trivial

theorem moveRises_noWrites : JobsOver (fun j => j.kind = .write) (moveRises picks s) :=
  runAll_reaches (P := JobsOver fun j => j.kind = .write) .mapMove mapMove_noWrites
    (fun _ _ => jobsOver_winds fun _ _ ⟨kind, _⟩ hk => kind ▸ hk) _ _ (by simp [moveConsequences]) s

theorem moveRises_withdrawn (w : UnitId) : NoneUnbegun moveWithdraws w (moveRises picks s) :=
  runAll_reaches_kept (P := NoneUnbegun moveWithdraws w) (.withdrawMove w) _ (by simp [moveConsequences, allUnits])
    (fun v => noneUnbegun_withdrawEntries w moveWithdraws .interlock v)
    (fun _ hq v => noneUnbegun_winnow (winnow_runConsequence (Or.inl hq) v) rfl) _ s

theorem runRises_writesLive : WritesLive (runRises picks s) :=
  runAll_reaches (P := WritesLive) .mapRun mapRun_writesLive (fun _ _ => writesLive_winds) _ _ (by simp [runConsequences]) s

/-- Windows stay LIVE or not through the consequences, so that the entries withdrawn are those named before the edge. -/
theorem runRises_withdrawn (w : UnitId) : NoneUnbegun (runWithdraws w s) w (runRises picks s) := by
  have reached := runAll_reaches_kept
    (P := fun v => (∀ i, isLive w i v = isLive w i s) → NoneUnbegun (runWithdraws w s) w v) (.withdrawRun w) runConsequences
    (by simp [runConsequences, allUnits])
    (fun v hv => by
      have same : runWithdraws w s = runWithdraws w v := by
        funext e
        simp only [runWithdraws_eq, ← hv, isLive_winds (winds_runConsequence (Winds.refl v) _)]
      rw [same]
      exact noneUnbegun_withdrawEntries w (runWithdraws w v) .interlock v)
    (fun q hq v hs hv => noneUnbegun_winnow (winnow_runConsequence (Or.inr hq) v) rfl
      (hs fun i => by rw [← hv, isLive_winds (winds_runConsequence (Winds.refl v) _)]))
    picks s
  exact reached fun i => isLive_winds (winds_runAll (Winds.refl s) _ _) w i

end Edge

/-- Settles O53: each consequence ends its part of the work, and none of the others brings it back. -/
theorem risesOfMoveAndRunEndWork : Obligations.RisesOfMoveAndRunEndWork := by
  intro l race s u ht htimer hraw hfiltered hl taken
  have expiry : exec (.filterTimerExpiry l race) s = .next (edge l true race taken) := by
    rw [exec_filterTimerExpiry ht, filterExpires_edge htimer hraw (by rw [hfiltered]; decide)]
    rfl
  cases l with
  | ign => exact absurd rfl hl
  | move =>
    refine ⟨moveRises race taken, expiry, winds_runAll (Winds.refl taken) _ _,
      fun w => rise_notFlashBound race taken w (by simp [moveConsequences, allUnits]),
      fun k x hx => rise_concluded race taken k (by simp [moveConsequences, allCtxs]) hx,
      fun _ => ⟨fun j hj => ?_, fun w => ?_⟩, fun h => absurd h (by decide)⟩
    · have notWrite := moveRises_noWrites race taken j hj
      cases hk : j.kind with
      | read => rfl
      | write => exact absurd hk notWrite
    · have withdrawn := moveRises_withdrawn race taken w
      rwa [funext moveWithdraws_eq] at withdrawn
  | run =>
    refine ⟨runRises race taken, expiry, winds_runAll (Winds.refl taken) _ _,
      fun w => rise_notFlashBound race taken w (by simp [runConsequences, allUnits]),
      fun k x hx => rise_concluded race taken k (by simp [runConsequences, allCtxs]) hx,
      fun h => absurd h (by decide), fun _ => ⟨runRises_writesLive race taken, fun w => ?_⟩⟩
    have withdrawn := runRises_withdrawn race taken w
    rwa [funext (runWithdraws_eq w taken)] at withdrawn

end Sys2Proof.Machine
end

section
/-! The range stage (R32 to R35), the clipping of a MAP READ (R33) and the runs of a MAP WRITE (R34). -/

namespace Sys2Proof.Machine

/-! ### The range stage of each kind -/

section Range
variable {v : UnitId} {i : Fin 4} {s : State}

theorem windowRange_undefined (h : windowAt v i s = none) (o n most : Nat) :
    windowRange v i o n most s = some .outOfWindow := by
  unfold windowRange
  rw [h]

/-- R32: first the length, then the window's end. -/
theorem windowRange_defined {w : Window} (h : windowAt v i s = some w) (o n most : Nat) : windowRange v i o n most s =
    if n = 0 ∨ most < n then some .badLength else if o + n ≤ windowSize w then none else some .outOfWindow := by
  unfold windowRange
  rw [h]
  dsimp only
  simp only [← not_le (a := o + n), ite_not]

theorem rangeStage_streamOpen_undefined (h : windowAt v i s = none) (policy : GapPolicy) (size start total : Nat) :
    rangeStage (.streamOpen v i policy size start total) s = some .badArgument := by
  unfold rangeStage
  dsimp only
  rw [h]

/-- R35: a flash target, a block size of 16 to 240, and a stream inside the window. -/
theorem rangeStage_streamOpen_defined {w : Window} (h : windowAt v i s = some w) (policy : GapPolicy)
    (size start total : Nat) : rangeStage (.streamOpen v i policy size start total) s =
      if w.flashTarget = true ∧ 16 ≤ size ∧ size ≤ 240 ∧ total ≠ 0 ∧ start + total ≤ windowSize w then none
      else some .badArgument := by
  unfold rangeStage
  dsimp only
  rw [h]
  dsimp only
  have bad : (!w.flashTarget || size < 16 || 240 < size || total == 0 || windowSize w < start + total) = true ↔
      ¬ (w.flashTarget = true ∧ 16 ≤ size ∧ size ≤ 240 ∧ total ≠ 0 ∧ start + total ≤ windowSize w) := by
    simp only [Bool.or_eq_true, Bool.not_eq_true', decide_eq_true_eq, beq_iff_eq, not_and_or, not_le, not_not,
      Bool.not_eq_true, or_assoc]
  rw [if_congr bad rfl rfl, ite_not]

theorem rangeStage_mapWrite_undefined (h : mapAt v i s = none) (r0 c0 w1 h1 : Nat) (key mask : BitVec 32)
    (cells : List Byte) : rangeStage (.mapWrite v i r0 c0 w1 h1 key mask cells) s = some .outOfMap := by
  unfold rangeStage
  dsimp only
  rw [h]

/-- R34: first the rectangle, then the number of bytes. -/
theorem rangeStage_mapWrite_defined {m : MapDef} (h : mapAt v i s = some m) (r0 c0 w1 h1 : Nat) (key mask : BitVec 32)
    (cells : List Byte) : rangeStage (.mapWrite v i r0 c0 w1 h1 key mask cells) s =
      if m.rows ≤ r0 + h1 ∨ m.columns ≤ c0 + w1 then some .outOfMap
      else if cells.length = (w1 + 1) * (h1 + 1) * m.cell ∧ cells.length ≤ 224 then none else some .badLength := by
  unfold rangeStage
  dsimp only
  rw [h]
  dsimp only
  have bad : (cells.length ≠ (w1 + 1) * (h1 + 1) * m.cell ∨ 224 < cells.length) ↔
      ¬ (cells.length = (w1 + 1) * (h1 + 1) * m.cell ∧ cells.length ≤ 224) := by
    rw [not_and_or, not_le]
  rw [if_congr bad rfl rfl, ite_not]

theorem rangeStage_mapRead_undefined (h : mapAt v i s = none) (r0 c0 w1 h1 : Nat) :
    rangeStage (.mapRead v i r0 c0 w1 h1) s = some .outOfMap := by
  unfold rangeStage
  dsimp only
  rw [h]

theorem rangeStage_mapRead_defined {m : MapDef} (h : mapAt v i s = some m) (r0 c0 w1 h1 : Nat) :
    rangeStage (.mapRead v i r0 c0 w1 h1) s =
      if m.rows ≤ r0 ∨ m.columns ≤ c0 then some .outOfMap else none := by
  unfold rangeStage
  dsimp only
  rw [h]

theorem planOf_mapRead {m : MapDef} (h : mapAt v i s = some m) (r0 c0 w1 h1 : Nat) :
    planOf (.mapRead v i r0 c0 w1 h1) s = readPlan v m r0 c0 w1 h1 s := by
  unfold planOf
  dsimp only
  rw [h]

theorem planOf_mapWrite {m : MapDef} (h : mapAt v i s = some m) (r0 c0 w1 h1 : Nat) (key mask : BitVec 32)
    (cells : List Byte) : planOf (.mapWrite v i r0 c0 w1 h1 key mask cells) s =
      writePlan v m r0 c0 w1 h1 key mask cells s := by
  unfold planOf
  dsimp only
  rw [h]

end Range

/-! ### The rectangle of a MAP READ (R33) -/

theorem readWidth_le (m : MapDef) (c0 w1 : Nat) : readWidth m c0 w1 ≤ m.columns - c0 :=
  (min_le_left _ _).trans (min_le_right _ _)

theorem readHeight_le (m : MapDef) (r0 c0 w1 h1 : Nat) : readHeight m r0 c0 w1 h1 ≤ m.rows - r0 :=
  (min_le_left _ _).trans (min_le_right _ _)

/-- The delivered rectangle holds at most 240 bytes. -/
theorem readRectangle_bytes (m : MapDef) (r0 c0 w1 h1 : Nat) :
    readWidth m c0 w1 * readHeight m r0 c0 w1 h1 * m.cell ≤ 240 := by
  calc readWidth m c0 w1 * readHeight m r0 c0 w1 h1 * m.cell
      = readHeight m r0 c0 w1 h1 * (readWidth m c0 w1 * m.cell) := by ac_rfl
    _ ≤ 240 / (readWidth m c0 w1 * m.cell) * (readWidth m c0 w1 * m.cell) :=
        Nat.mul_le_mul_right _ (min_le_right _ _)
    _ ≤ 240 := Nat.div_mul_le_self ..

/-- With a cell size of R47 and a first cell inside the map the rectangle is not empty. -/
theorem readRectangle_nonempty {m : MapDef} {r0 c0 : Nat} (w1 h1 : Nat) (hr : r0 < m.rows) (hc : c0 < m.columns)
    (hcell : m.cell = 1 ∨ m.cell = 2 ∨ m.cell = 4) : 1 ≤ readWidth m c0 w1 ∧ 1 ≤ readHeight m r0 c0 w1 h1 := by
  have cell : 1 ≤ m.cell ∧ m.cell ≤ 4 := by omega
  have wide : 1 ≤ readWidth m c0 w1 :=
    le_min (le_min (by omega) (by omega)) ((Nat.le_div_iff_mul_le (by omega)).mpr (by omega))
  have row : readWidth m c0 w1 * m.cell ≤ 240 :=
    (Nat.mul_le_mul_right _ (min_le_right _ _)).trans (Nat.div_mul_le_self ..)
  refine ⟨wide, le_min (le_min (by omega) (by omega)) ((Nat.le_div_iff_mul_le ?_).mpr (by omega))⟩
  exact Nat.mul_pos (by omega) (by omega)

theorem readPlan_row {v : UnitId} {m : MapDef} {r0 c0 w1 h1 k : Nat} {s : State} {q : RowReq}
    (h : (readPlan v m r0 c0 w1 h1 s).rows[k]? = some q) :
    q.addr = cellAddr v m (r0 + k) c0 s ∧ q.len = readWidth m c0 w1 * m.cell := by
  simp only [readPlan, List.getElem?_map, Option.map_eq_some_iff] at h
  obtain ⟨i, hi, rfl⟩ := h
  obtain ⟨-, rfl⟩ := List.getElem?_eq_some_iff.mp hi
  simp only [List.getElem_range, and_self]

/-! ### The runs of a row (R34)

A row is its cells at the columns 0 to `n - 1`; `runsOfRow` walks it from a column on, with the run in progress. -/

section Runs
variable (skipped : List Byte → Bool) (cell : Nat → List Byte) (n : Nat)

/-- The cell at a column of the row is not skipped. -/
def KeptAt (column : Nat) : Prop := column < n ∧ skipped (cell column) = false

/-- A sequence of kept cells that begins where none is kept before, with the bytes of its cells. -/
structure RunFrom (r : Run) : Prop where
  nonempty : 1 ≤ r.count
  kept : ∀ l, l < r.count → KeptAt skipped cell n (r.first + l)
  starts : ∀ l, l + 1 = r.first → ¬ KeptAt skipped cell n l
  bytes : r.data = (List.range' r.first r.count).flatMap cell

/-- The cells of the row from column `k` on. -/
def rowFrom (k m : Nat) : List (List Byte) := (List.range' k m).map cell

/-- The run in progress at column `k`, or none where the cell before is skipped. -/
def InProgress (k : Nat) : Option Run → Prop
  | none => ∀ l, l + 1 = k → ¬ KeptAt skipped cell n l
  | some r => RunFrom skipped cell n r ∧ r.first + r.count = k

variable {skipped cell n}

theorem rowFrom_succ (k m : Nat) : rowFrom cell k (m + 1) = cell k :: rowFrom cell (k + 1) m := rfl

theorem runsOfRow_end (k : Nat) (current : Option Run) : runsOfRow skipped k current (rowFrom cell k 0) = current.toList := by
  unfold rowFrom runsOfRow
  rfl

theorem runsOfRow_skip {k : Nat} (h : skipped (cell k) = true) (current : Option Run) (m : Nat) :
    runsOfRow skipped k current (rowFrom cell k (m + 1)) =
      current.toList ++ runsOfRow skipped (k + 1) none (rowFrom cell (k + 1) m) := by
  rw [rowFrom_succ, runsOfRow, if_pos h]

theorem runsOfRow_keep {k : Nat} (h : skipped (cell k) = false) (current : Option Run) (m : Nat) :
    runsOfRow skipped k current (rowFrom cell k (m + 1)) =
      runsOfRow skipped (k + 1) (some (extendRun k (cell k) current)) (rowFrom cell (k + 1) m) := by
  rw [rowFrom_succ, runsOfRow, if_neg (by rw [h]; exact Bool.false_ne_true)]

/-- After a skipped cell no run is in progress. -/
theorem inProgress_skip {k : Nat} (h : skipped (cell k) = true) : InProgress skipped cell n (k + 1) none := by
  rintro l hl ⟨-, hkept⟩
  obtain rfl : l = k := by omega
  rw [h] at hkept
  cases hkept

/-- A kept cell extends the run in progress, or begins one. -/
theorem inProgress_extend {k : Nat} {current : Option Run} (hk : KeptAt skipped cell n k)
    (h : InProgress skipped cell n k current) : InProgress skipped cell n (k + 1) (some (extendRun k (cell k) current)) := by
  cases current with
  | none =>
    refine ⟨⟨le_rfl, fun l hl => ?_, h, ?_⟩, rfl⟩
    · obtain rfl : l = 0 := by simpa [extendRun] using hl
      exact hk
    · simp [extendRun]
  | some r =>
    obtain ⟨run, hend⟩ := h
    refine ⟨⟨Nat.le_add_left .., fun l hl => ?_, run.starts, ?_⟩, by simp only [extendRun]; omega⟩
    · rcases Nat.lt_succ_iff_lt_or_eq.mp hl with hl | rfl
      · exact run.kept l hl
      · exact hend ▸ hk
    · simp only [extendRun, run.bytes, List.range'_1_concat, List.flatMap_append, List.flatMap_singleton, hend]

/-- Every run is a maximal sequence of kept cells. -/
theorem runsOfRow_maximal : ∀ (m k : Nat) (current : Option Run), k + m = n → InProgress skipped cell n k current →
    ∀ r ∈ runsOfRow skipped k current (rowFrom cell k m),
      RunFrom skipped cell n r ∧ ¬ KeptAt skipped cell n (r.first + r.count) := by
  intro m
  induction m with
  | zero =>
    intro k current hn hcur r hr
    rw [runsOfRow_end, Option.mem_toList] at hr
    subst hr
    obtain ⟨run, hend⟩ := hcur
    exact ⟨run, fun ⟨inside, _⟩ => by omega⟩
  | succ m ih =>
    intro k current hn hcur r hr
    cases hs : skipped (cell k) with
    | true =>
      rw [runsOfRow_skip hs, List.mem_append, Option.mem_toList] at hr
      rcases hr with rfl | hr
      · obtain ⟨run, hend⟩ := hcur
        refine ⟨run, fun ⟨_, hkept⟩ => ?_⟩
        rw [hend, hs] at hkept
        cases hkept
      · exact ih (k + 1) none (by omega) (inProgress_skip hs) r hr
    | false =>
      rw [runsOfRow_keep hs] at hr
      exact ih (k + 1) _ (by omega) (inProgress_extend ⟨by omega, hs⟩ hcur) r hr

/-- Every kept cell from column `k` on, and every cell of the run in progress, lies in a run. -/
theorem runsOfRow_cover : ∀ (m k : Nat) (current : Option Run), k + m = n → InProgress skipped cell n k current →
    ∀ i, (∃ r, current = some r ∧ r.first ≤ i ∧ i < k) ∨ (k ≤ i ∧ KeptAt skipped cell n i) →
      ∃ r ∈ runsOfRow skipped k current (rowFrom cell k m), r.first ≤ i ∧ i < r.first + r.count := by
  intro m
  induction m with
  | zero =>
    intro k current hn hcur i hi
    rw [runsOfRow_end]
    rcases hi with ⟨r, rfl, hfirst, hlt⟩ | ⟨hle, inside, -⟩
    · obtain ⟨-, hend⟩ := hcur
      exact ⟨r, by simp, hfirst, by omega⟩
    · omega
  | succ m ih =>
    intro k current hn hcur i hi
    cases hs : skipped (cell k) with
    | true =>
      rw [runsOfRow_skip hs]
      rcases hi with ⟨r, rfl, hfirst, hlt⟩ | ⟨hle, hkept⟩
      · obtain ⟨-, hend⟩ := hcur
        exact ⟨r, by simp, hfirst, by omega⟩
      · have later : k + 1 ≤ i := by
          rcases Nat.eq_or_lt_of_le hle with rfl | hlt
          · obtain ⟨-, hkept⟩ := hkept
            rw [hs] at hkept
            cases hkept
          · exact hlt
        obtain ⟨r, hr, hcovers⟩ := ih (k + 1) none (by omega) (inProgress_skip hs) i (Or.inr ⟨later, hkept⟩)
        exact ⟨r, List.mem_append_right _ hr, hcovers⟩
    | false =>
      rw [runsOfRow_keep hs]
      refine ih (k + 1) _ (by omega) (inProgress_extend ⟨by omega, hs⟩ hcur) i ?_
      rcases hi with ⟨r, rfl, hfirst, hlt⟩ | ⟨hle, hkept⟩
      · exact Or.inl ⟨_, rfl, hfirst, by omega⟩
      · rcases Nat.eq_or_lt_of_le hle with rfl | hlt
        · refine Or.inl ⟨_, rfl, ?_, by omega⟩
          cases current with
          | none => exact le_rfl
          | some r =>
            obtain ⟨-, hend⟩ := hcur
            simp only [extendRun]
            omega
        · exact Or.inr ⟨hlt, hkept⟩

/-- The first column of the run in progress, or the column itself. -/
def firstFrom (k : Nat) : Option Run → Nat
  | none => k
  | some r => r.first

theorem firstFrom_extend (k : Nat) (x : List Byte) (current : Option Run) (j : Nat) :
    firstFrom j (some (extendRun k x current)) = firstFrom k current := by cases current <;> rfl

/-- The runs stand in the order of their columns. -/
theorem runsOfRow_ascending : ∀ (m k : Nat) (current : Option Run), (∀ r, current = some r → r.first < k) →
    (runsOfRow skipped k current (rowFrom cell k m)).Pairwise (fun a b => a.first < b.first) ∧
      ∀ r ∈ runsOfRow skipped k current (rowFrom cell k m), firstFrom k current ≤ r.first := by
  intro m
  induction m with
  | zero =>
    intro k current hcur
    rw [runsOfRow_end]
    cases current with
    | none => exact ⟨List.Pairwise.nil, fun r hr => by cases hr⟩
    | some c => exact ⟨List.pairwise_singleton .., fun r hr => by cases List.mem_singleton.mp hr; exact le_rfl⟩
  | succ m ih =>
    intro k current hcur
    cases hs : skipped (cell k) with
    | true =>
      obtain ⟨sorted, above⟩ := ih (k + 1) none fun r hr => by cases hr
      rw [runsOfRow_skip hs]
      cases current with
      | none => exact ⟨sorted, fun r hr => (Nat.le_succ k).trans (above r hr)⟩
      | some c =>
        have before := hcur c rfl
        refine ⟨List.pairwise_cons.mpr ⟨fun r hr => (before.trans (Nat.lt_succ_self k)).trans_le (above r hr), sorted⟩,
          fun r hr => ?_⟩
        rcases List.mem_cons.mp hr with rfl | hr
        · exact le_rfl
        · exact (before.trans (Nat.lt_succ_self k)).le.trans (above r hr)
    | false =>
      rw [runsOfRow_keep hs, ← firstFrom_extend k (cell k) current (k + 1)]
      refine ih (k + 1) _ fun r hr => ?_
      cases hr
      cases current with
      | none => exact Nat.lt_succ_self k
      | some c => exact (hcur c rfl).trans (Nat.lt_succ_self k)

theorem inProgress_zero : InProgress skipped cell n 0 none := fun _ hl => nomatch hl

/-- A run begins exactly at the kept cells that follow no kept cell. -/
theorem runsOfRow_first_iff (column : Nat) :
    (∃ r ∈ runsOfRow skipped 0 none (rowFrom cell 0 n), r.first = column) ↔
      KeptAt skipped cell n column ∧ ∀ l, l + 1 = column → ¬ KeptAt skipped cell n l := by
  constructor
  · rintro ⟨r, hr, rfl⟩
    obtain ⟨run, -⟩ := runsOfRow_maximal n 0 none (Nat.zero_add n) inProgress_zero r hr
    exact ⟨run.kept 0 run.nonempty, run.starts⟩
  · rintro ⟨hkept, hstarts⟩
    obtain ⟨r, hr, hle, hlt⟩ :=
      runsOfRow_cover n 0 none (Nat.zero_add n) inProgress_zero column (Or.inr ⟨Nat.zero_le _, hkept⟩)
    obtain ⟨run, -⟩ := runsOfRow_maximal n 0 none (Nat.zero_add n) inProgress_zero r hr
    refine ⟨r, hr, hle.antisymm (le_of_not_gt fun hafter => ?_)⟩
    have previous := run.kept (column - 1 - r.first) (by omega)
    rw [show r.first + (column - 1 - r.first) = column - 1 by omega] at previous
    exact hstarts (column - 1) (by omega) previous

end Runs

/-! ### The runs of a MAP WRITE -/

/-- A bit of the word that R34 compares with 0. -/
theorem skipWord_bit (size : Nat) (key mask : BitVec 32) (cell : List Byte) {b : Nat} (hb : b < 32) :
    ((BitVec.ofNat 32 (leNat cell) ^^^ key) &&& ~~~mask &&& BitVec.ofNat 32 (2 ^ (8 * size) - 1)).getLsbD b =
      (((leNat cell).testBit b ^^ key.getLsbD b) && !mask.getLsbD b && decide (b < 8 * size)) := by
  rw [BitVec.getLsbD_and, BitVec.getLsbD_and, BitVec.getLsbD_xor, BitVec.getLsbD_not, BitVec.getLsbD_ofNat,
    BitVec.getLsbD_ofNat, Nat.testBit_two_pow_sub_one]
  simp only [hb, decide_true, Bool.true_and]

/-- A cell is skipped unless an unmasked bit of it differs from the key (R34). -/
theorem isSkipped_false_iff {size : Nat} (h : 8 * size ≤ 32) (key mask : BitVec 32) (cell : List Byte) :
    isSkipped size key mask cell = false ↔
      ∃ b, b < 8 * size ∧ mask.getLsbD b = false ∧ (leNat cell).testBit b ≠ key.getLsbD b := by
  unfold isSkipped
  rw [beq_eq_false_iff_ne, ne_eq, ← not_iff_not, not_not]
  push Not
  constructor
  · intro hzero b hb hmask
    have bit := skipWord_bit size key mask cell (show b < 32 by omega)
    rw [hzero, hmask] at bit
    simpa [hb] using bit
  · intro hall
    refine BitVec.eq_of_getLsbD_eq fun b hb => ?_
    rw [skipWord_bit size key mask cell hb]
    by_cases hin : b < 8 * size
    · cases hmask : mask.getLsbD b with
      | true => simp
      | false => simp [hall b hin hmask]
    · simp [hin]

/-- The bytes of cell `i` of a rectangle, cells numbered in row-major order (11.2). -/
def cellBytes (size : Nat) (cells : List Byte) (i : Nat) : List Byte := (cells.drop (i * size)).take size

theorem cellsOf_row (width size row : Nat) (cells : List Byte) :
    cellsOf width size (cells.drop (row * width * size)) =
      rowFrom (fun column => cellBytes size cells (row * width + column)) 0 width := by
  unfold cellsOf rowFrom cellBytes
  rw [List.range_eq_range']
  simp only [List.drop_drop, Nat.add_mul]

/-- Cells that follow one another are one sequence of bytes. -/
theorem flatMap_cellBytes (size base : Nat) (cells : List Byte) : ∀ (count first : Nat),
    ((List.range' first count).flatMap fun column => cellBytes size cells (base + column)) =
      (cells.drop ((base + first) * size)).take (count * size) := by
  intro count
  induction count with
  | zero => intro first; simp
  | succ count ih =>
    intro first
    rw [List.range'_succ, List.flatMap_cons, ih (first + 1), Nat.succ_mul, Nat.add_comm (count * size) size, List.take_add,
      List.drop_drop]
    congr 3
    ring

section Write
variable {v : UnitId} {m : MapDef} {r0 c0 width height : Nat} {key mask : BitVec 32} {cells : List Byte} {s : State}

/-- The runs of one row of the rectangle. -/
def rowRuns (m : MapDef) (width : Nat) (key mask : BitVec 32) (cells : List Byte) (row : Nat) : List Run :=
  runsOfRow (isSkipped m.cell key mask) 0 none
    (rowFrom (fun column => cellBytes m.cell cells (row * width + column)) 0 width)

/-- The row request of a run (R34, R105). -/
def runRequest (v : UnitId) (m : MapDef) (r0 c0 : Nat) (s : State) (row : Nat) (run : Run) : RowReq :=
  { row := row, column := run.first, cells := run.count, addr := cellAddr v m (r0 + row) (c0 + run.first) s,
    len := run.count * m.cell, data := run.data }

theorem writeRuns_eq : writeRuns v m r0 c0 width height key mask cells s =
    (List.range height).flatMap fun row => (rowRuns m width key mask cells row).map (runRequest v m r0 c0 s row) := by
  unfold writeRuns rowRuns
  simp only [cellsOf_row]
  rfl

theorem mem_writeRuns {q : RowReq} : q ∈ writeRuns v m r0 c0 width height key mask cells s ↔
    ∃ row < height, ∃ run ∈ rowRuns m width key mask cells row, runRequest v m r0 c0 s row run = q := by
  rw [writeRuns_eq, List.mem_flatMap]
  simp only [List.mem_range, List.mem_map]

/-- Row-major order (R34). -/
theorem writeRuns_ascending : (writeRuns v m r0 c0 width height key mask cells s).Pairwise
    fun a b => a.row < b.row ∨ (a.row = b.row ∧ a.column < b.column) := by
  rw [writeRuns_eq, List.pairwise_flatMap]
  refine ⟨fun row _ => ?_, List.pairwise_lt_range.imp fun hrow a ha b hb => ?_⟩
  · obtain ⟨sorted, -⟩ := runsOfRow_ascending (skipped := isSkipped m.cell key mask)
      (cell := fun column => cellBytes m.cell cells (row * width + column)) width 0 none fun r hr => by cases hr
    exact List.pairwise_map.mpr (sorted.imp fun hlt => Or.inr ⟨rfl, hlt⟩)
  · obtain ⟨x, -, rfl⟩ := List.mem_map.mp ha
    obtain ⟨y, -, rfl⟩ := List.mem_map.mp hb
    exact Or.inl hrow

/-- The cell at a row and column of the rectangle is not skipped. -/
def KeptCell (m : MapDef) (width : Nat) (key mask : BitVec 32) (cells : List Byte) (row column : Nat) : Prop :=
  KeptAt (isSkipped m.cell key mask) (fun column => cellBytes m.cell cells (row * width + column)) width column

theorem writeRuns_first_iff (row column : Nat) :
    (∃ q ∈ writeRuns v m r0 c0 width height key mask cells s, q.row = row ∧ q.column = column) ↔
      row < height ∧ KeptCell m width key mask cells row column ∧
        ∀ l, l + 1 = column → ¬ KeptCell m width key mask cells row l := by
  unfold KeptCell
  rw [← runsOfRow_first_iff]
  constructor
  · rintro ⟨q, hq, rfl, rfl⟩
    obtain ⟨row, hrow, run, hrun, rfl⟩ := mem_writeRuns.mp hq
    exact ⟨hrow, run, hrun, rfl⟩
  · rintro ⟨hrow, run, hrun, rfl⟩
    exact ⟨_, mem_writeRuns.mpr ⟨row, hrow, run, hrun, rfl⟩, rfl, rfl⟩

/-- Each row request is a maximal run with its address, length and bytes (R34). -/
theorem writeRuns_run {q : RowReq} (hq : q ∈ writeRuns v m r0 c0 width height key mask cells s) :
    q.row < height ∧ 1 ≤ q.cells ∧ (∀ l, l < q.cells → KeptCell m width key mask cells q.row (q.column + l)) ∧
      ¬ KeptCell m width key mask cells q.row (q.column + q.cells) ∧
      q.addr = cellAddr v m (r0 + q.row) (c0 + q.column) s ∧ q.len = q.cells * m.cell ∧
      q.data = (cells.drop ((q.row * width + q.column) * m.cell)).take (q.cells * m.cell) := by
  obtain ⟨row, hrow, run, hrun, rfl⟩ := mem_writeRuns.mp hq
  obtain ⟨isRun, stops⟩ := runsOfRow_maximal width 0 none (Nat.zero_add width) inProgress_zero run hrun
  exact ⟨hrow, isRun.nonempty, isRun.kept, stops, rfl, rfl, isRun.bytes.trans (flatMap_cellBytes ..)⟩

end Write

/-- Settles O25, kind by kind. -/
theorem rangeStageAndClipping : Obligations.RangeStageAndClipping := by
  intro v i s
  refine ⟨fun o n => ?_, fun o data => ?_, fun policy size a total => ?_, fun r0 c0 w1 h1 key mask cells => ?_,
    fun r0 c0 w1 h1 => ⟨fun hm => rangeStage_mapRead_undefined hm r0 c0 w1 h1, fun m hm => ⟨fun hout => ?_, fun hr hc => ?_⟩⟩,
    fun r0 c0 w1 h1 key mask cells m hm hcell => ?_⟩
  · cases hw : windowAt v i s with
    | none => exact windowRange_undefined hw o n 240
    | some w => exact windowRange_defined hw o n 240
  · cases hw : windowAt v i s with
    | none => exact windowRange_undefined hw o data.length 232
    | some w => exact windowRange_defined hw o data.length 232
  · cases hw : windowAt v i s with
    | none => exact rangeStage_streamOpen_undefined hw policy size a total
    | some w => exact rangeStage_streamOpen_defined hw policy size a total
  · cases hm : mapAt v i s with
    | none => exact rangeStage_mapWrite_undefined hm r0 c0 w1 h1 key mask cells
    | some m => exact rangeStage_mapWrite_defined hm r0 c0 w1 h1 key mask cells
  · rw [rangeStage_mapRead_defined hm, if_pos hout]
  · rw [rangeStage_mapRead_defined hm, if_neg (by omega), planOf_mapRead hm]
    have wide := readWidth_le m c0 w1
    have high := readHeight_le m r0 c0 w1 h1
    refine ⟨rfl, rfl, rfl, by simp [readPlan], rfl, by simp [readPlan], ?_, ?_, readRectangle_bytes m r0 c0 w1 h1,
      readRectangle_nonempty w1 h1 hr hc, fun k q hq => readPlan_row hq⟩
    · simp only [readPlan]
      omega
    · simp only [readPlan]
      omega
  · rw [planOf_mapWrite hm]
    intro p cell kept
    have kept_iff : ∀ row column, kept row column ↔
        row < h1 + 1 ∧ KeptCell m (w1 + 1) key mask cells row column := by
      intro row column
      unfold KeptCell KeptAt
      rw [isSkipped_false_iff (by omega), Nat.lt_succ_iff, Nat.lt_succ_iff]
      rfl
    refine ⟨rfl, rfl, rfl, rfl, fun row column => ?_, fun q hq => ?_, writeRuns_ascending⟩
    · rw [show p.rows = writeRuns v m r0 c0 (w1 + 1) (h1 + 1) key mask cells s from rfl, writeRuns_first_iff]
      simp only [kept_iff]
      constructor
      · rintro ⟨⟨hrow, hkept⟩, hstarts⟩
        exact ⟨hrow, hkept, fun l hl hbefore => hstarts l hl ⟨hrow, hbefore⟩⟩
      · rintro ⟨hrow, hkept, hstarts⟩
        exact ⟨⟨hrow, hkept⟩, fun l hl hbefore => hstarts l hl hbefore.2⟩
    · obtain ⟨hrow, nonempty, inside, stops, addr, len, data⟩ := writeRuns_run hq
      exact ⟨nonempty, fun l hl => (kept_iff _ _).mpr ⟨hrow, inside l hl⟩, fun h => stops ((kept_iff _ _).mp h).2, addr, len,
        data⟩

end Sys2Proof.Machine
end

section
/-! R54's law of FLASH at rest, with the edges of R42 and R43: a claim is FLASH, or bound for it, only while RUN and MOVE are
deasserted. -/

namespace Sys2Proof.Machine

variable {s t : State}

/-- The law speaks of the claims and of RUN and MOVE only: with the claims unchanged it stays where no rest ends. -/
theorem flashOnlyAtRest_of_units (hs : FlashOnlyAtRest s) (hu : t.units = s.units)
    (hrest : s.filtered.run = false ∧ s.filtered.move = false → t.filtered.run = false ∧ t.filtered.move = false) :
    FlashOnlyAtRest t := by
  intro w hw
  rw [unitAt_congr hu] at hw
  exact hrest (hs w hw)

/-- With every block at its power-on values no claim is FLASH or bound for it, whatever the lines. -/
theorem flashOnlyAtRest_powerOn {raw : PerLine Bool} (h : t.units = (State.powerOn raw).units) : FlashOnlyAtRest t := by
  intro w hw
  have initial : unitAt w t = UnitRec.initial := by
    rw [unitAt_congr h]
    exact Vector.get_replicate ..
  rw [initial] at hw
  cases hw

/-- A line's level that ends no rest: IGN's, or a deasserted one, or the level the line has (R41). -/
theorem flashOnlyAtRest_takeLevel (hs : FlashOnlyAtRest s) {l : Line} {level : Bool}
    (hl : l = .ign ∨ level = false ∨ level = s.filtered.get l) : FlashOnlyAtRest (takeLevel l level s) := by
  refine flashOnlyAtRest_of_units hs rfl fun ⟨run, move⟩ => ?_
  cases l with
  | ign => exact ⟨run, move⟩
  | run =>
    refine ⟨?_, move⟩
    rcases hl with hl | hl | hl
    · cases hl
    · exact hl
    · exact hl.trans run
  | move =>
    refine ⟨run, ?_⟩
    rcases hl with hl | hl | hl
    · cases hl
    · exact hl
    · exact hl.trans move

/-- Whatever the order of its consequences, a rise of MOVE or RUN leaves no claim FLASH or bound for it (R42, R43). -/
theorem flashOnlyAtRest_rise {l : Line} (hl : l ≠ .ign) (race : List Nat) (s : State) :
    FlashOnlyAtRest (edge l true race s) := by
  intro w hw
  have left : NotFlashBound w (edge l true race s) := by
    cases l with
    | ign => exact absurd rfl hl
    | run => exact rise_notFlashBound race s w (by simp [runConsequences, allUnits])
    | move => exact rise_notFlashBound race s w (by simp [moveConsequences, allUnits])
  exact absurd (left.symm.trans hw) Bool.false_ne_true

/-- A filter timer's expiry: only a rise of MOVE or RUN ends the rest, and it takes the claims with it (R41 to R43). -/
theorem flashOnlyAtRest_filterExpires (hs : FlashOnlyAtRest s) (l : Line) (race : List Nat) :
    FlashOnlyAtRest (filterExpires l race s) := by
  unfold filterExpires
  split
  · exact hs
  · split
    · exact flashOnlyAtRest_takeLevel hs (Or.inr (Or.inr ‹_›))
    · by_cases hrise : l ≠ .ign ∧ s.raw.get l = true
      · rw [hrise.2]
        exact flashOnlyAtRest_rise hrise.1 race _
      · refine (keeps_edge (Keeps.refl _) l _ race).flashOnlyAtRest (flashOnlyAtRest_takeLevel hs ?_)
        rw [not_and_or, not_not, Bool.not_eq_true] at hrise
        exact hrise.imp_right Or.inl

/-- Every row keeps the law: those that move no line by `Keeps`, the other four by what they do to claims and lines. -/
theorem flashOnlyAtRest_exec (hs : FlashOnlyAtRest s) {c : Instr} (h : exec c s = .next t) : FlashOnlyAtRest t := by
  cases hc : movesLines c with
  | false => exact (keeps_exec hc h).flashOnlyAtRest hs
  | true =>
    have settled : FlashOnlyAtRest (advance (settle s)) := (keeps_advance_settle s).flashOnlyAtRest hs
    cases c with
    | powerOn => cases h; exact flashOnlyAtRest_powerOn (raw := s.raw) rfl
    | resetNAsserted => cases h; exact flashOnlyAtRest_powerOn (raw := s.raw) rfl
    | rawLineChange l b =>
      change execRawLineChange l b s = _ at h
      unfold execRawLineChange at h
      split at h
      · cases h; exact flashOnlyAtRest_of_units hs rfl id
      · cases h
        unfold rawChange
        split
        · exact settled
        · exact flashOnlyAtRest_of_units settled rfl id
    | filterTimerExpiry l race =>
      change running (filterExpires l race) s = _ at h
      unfold running at h
      split at h
      · cases h; exact hs
      · cases h; exact flashOnlyAtRest_filterExpires settled l race
    | _ => cases hc

/-- Settles O9: an idle millisecond moves no line, and every row keeps the law. -/
theorem everyStepKeepsFlashAtRest : Obligations.EveryStepKeepsFlashAtRest := by
  intro s t hs h
  unfold step at h
  split at h
  · cases h; exact (keeps_idle s).flashOnlyAtRest hs
  · rename_i rest _
    exact flashOnlyAtRest_exec (s := { s with pending := rest }) (flashOnlyAtRest_of_units hs rfl id) h

end Sys2Proof.Machine
end

section
/-! Where a placed entry goes (R51, R118 to R120), and the entry that becomes outstanding. -/

namespace Sys2Proof.Machine

/-- The channels of SVP are numbered from 8. -/
theorem chanPort_svp_iff (c : ChanId) : chanPort c = .svp ↔ 8 ≤ c.val := by
  unfold chanPort
  have := c.isLt
  split_ifs <;> simp <;> omega

/-- The class of a request message, by the number of the channel it stands for (R120). -/
theorem entryClass_eq (e : Entry) : entryClass e = match sourceChan e.source with
    | none => 1
    | some c => if 8 ≤ c.val then 2 else 3 := by
  unfold entryClass
  cases sourceChan e.source with
  | none => rfl
  | some c => exact if_congr (chanPort_svp_iff c) rfl rfl

/-- The transmit queue entry of an outstanding entry (R118, R119). -/
def queueEntry (v : UnitId) (e : Entry) (d : UnitDef) (s : State) : QEntry where
  unit := v
  msg := e.msg
  source := some e.source
  cls := entryClass e
  entered := s.moment
  tag := (unitAt v s).tag
  reqId := d.reqId

/-- The queue entry joins the tail of the transmit queue of a bus. -/
def joinQueue (b : BusId) (q : QEntry) (s : State) : State :=
  setBus b { busAt b s with queue := (busAt b s).queue ++ [q] } s

section Place
variable {v : UnitId} {e : Entry} {d : UnitDef} {s : State}

/-- On a DEFINED unit an entry made outstanding joins its bus's queue and takes the unit's tag, which advances. -/
theorem makeOutstanding_defined (hd : (unitAt v s).defn = some d) : makeOutstanding v e s =
    setUnit v { unitAt v s with out := some e, tag := (unitAt v s).tag + 1 } (joinQueue d.bus (queueEntry v e d s) s) := by
  unfold makeOutstanding enterQueue
  simp only [unitAt_setUnit, hd, busAt_setUnit, setUnit_setBus, setUnit_setUnit]
  rfl

theorem placeEntry_outstanding (ho : (unitAt v s).out = none) (hw : (unitAt v s).wait = []) :
    placeEntry v e s = makeOutstanding v e s := by
  unfold placeEntry
  exact if_pos (by rw [ho, hw]; rfl)

theorem placeEntry_waiting (ho : (unitAt v s).out ≠ none) : placeEntry v e s =
    setUnit v { unitAt v s with wait := if e.source = .base then e :: (unitAt v s).wait else (unitAt v s).wait ++ [e] } s := by
  unfold placeEntry
  refine if_neg fun h => ho ?_
  rw [Bool.and_eq_true, Option.isNone_iff_eq_none] at h
  exact h.1

end Place

/-- Settles O18, by whether an entry is outstanding and, where one is, by the placed entry's source. -/
theorem placedEntryTakesItsPosition : Obligations.PlacedEntryTakesItsPosition := by
  intro v e d s hd
  refine ⟨fun ho hw => ?_, fun ho hsource => ?_, fun ho hsource => ?_⟩
  · rw [placeEntry_outstanding ho hw, makeOutstanding_defined hd]
    unfold joinQueue queueEntry
    rw [entryClass_eq] <;> rfl
  · rw [placeEntry_waiting ho, if_neg hsource]
  · rw [placeEntry_waiting ho, if_pos hsource]

end Sys2Proof.Machine
end

section
/-! MODE CLAIM, KEEP and MODE RELEASE (R55 to R59, R61, R62, R64). -/

namespace Sys2Proof.Machine

section ModeClaim
variable {c : ChanId} {v : UnitId} {mode : Mode} {g : Option Slot} {s : State}

/-- R57: the keep period of a count, and the CLAMPED mark. -/
theorem keepPeriod_eq (count : Nat) : keepPeriod count =
    (if count = 0 then 2000 else if count ≤ 50 then 100 * count else 5000, decide (50 < count)) := by
  unfold keepPeriod
  split_ifs with hzero hfifty
  · subst hzero; rfl
  · rw [decide_eq_false (Nat.not_lt.mpr hfifty)]
  · rw [decide_eq_true (Nat.not_le.mp hfifty)]

/-- The mode a claim is held in, ATTENDED or FLASH (R54). -/
theorem heldMode_eq (st : ClaimState) : heldMode st =
    if st = .attended then some Mode.attended else if st = .flash then some Mode.flash else none := by
  cases st <;> rfl

theorem repeatsMode_iff_held (cl : Claim) (m : Mode) : repeatsMode cl m = true ↔ heldMode cl.state = some m := by
  rw [repeatsMode_iff]
  cases cl.state <;> cases m <;> decide

/-- A FREE claim is taken ENTERING and a MODE ENTER placed (R55). -/
theorem handModeClaim_free (hfree : (unitAt v s).claim.state = .free) (count : Nat) : handModeClaim c v mode count g s =
    (placeEntry v (modeEnterEntry c mode g (keepPeriod count).1)
      (setUnit v { unitAt v s with claim := takenClaim c mode g (keepPeriod count).1 } s),
      .pends (.modeClaim v) (keepPeriod count).2) := by
  unfold handModeClaim
  exact if_pos hfree

/-- The holder's repeat of its mode renews the keep period and is answered at once (R56). -/
theorem handModeClaim_repeats (hheld : heldMode (unitAt v s).claim.state = some mode) (count : Nat) :
    handModeClaim c v mode count g s =
    (setUnit v { unitAt v s with
      claim := { (unitAt v s).claim with grant := g, keep := (keepPeriod count).1 }
      claimTimer := some (keepPeriod count).1 } s, .answered .done [] (keepPeriod count).2) := by
  unfold handModeClaim
  refine (if_neg fun hfree => ?_).trans (if_pos ((repeatsMode_iff_held _ _).mpr hheld))
  rw [hfree] at hheld
  cases hheld

/-- The holder's change of mode stops the claim timer and places a MODE ENTER (R56). -/
theorem handModeClaim_changes (hfree : (unitAt v s).claim.state ≠ .free)
    (hheld : heldMode (unitAt v s).claim.state ≠ some mode) (count : Nat) : handModeClaim c v mode count g s =
    (placeEntry v (modeEnterEntry c mode g (keepPeriod count).1)
      (setUnit v { unitAt v s with claim := changingClaim (unitAt v s).claim mode g, claimTimer := none } s),
      .pends (.modeClaim v) (keepPeriod count).2) := by
  unfold handModeClaim
  exact (if_neg hfree).trans (if_neg (mt (repeatsMode_iff_held _ _).mp hheld))

end ModeClaim

/-- Settles O31, by the claim's state: FREE, held in the mode, held in the other. -/
theorem modeClaimTakesRepeatsOrChanges : Obligations.ModeClaimTakesRepeatsOrChanges := by
  intro m v mode count g s u ht hi hs hr hg cl keep clamped held noted enter pending
  have heldIs : heldMode cl.state = held := heldMode_eq cl.state
  have period : keepPeriod count = (keep, clamped) := keepPeriod_eq count
  have row : exec (.modeClaim m) s = .next (
      let h := handModeClaim m.chan v mode count (some g)
        (setChan m.chan (takeMessage m.buf (rowBody .modeClaim m) (chanAt m.chan u)) noted)
      finishHandOff m.chan m.buf .modeClaim h.2 h.1) :=
    exec_request_idle ht hi hs hr hg (by simp [Request.kind])
  have record : ∀ x, unitAt v (setChan m.chan x noted) = unitAt v u := fun x =>
    (unitAt_setChan ..).trans (unitAt_noteAdmission ..)
  have placed : ∀ x y, placeEntry v enter (setUnit v y (setChan m.chan x noted)) =
      setChan m.chan x (placeEntry v enter (setUnit v y noted)) := fun x y =>
    placeEntry_setChan v enter m.chan x (setUnit v y noted)
  refine ⟨fun hfree => ?_, fun hmode hroom => ?_, fun hclaim hother => ?_⟩
  · rw [row, handModeClaim_free (by rw [record]; exact hfree), record, period]
    dsimp only
    exact congrArg _ ((congrArg _ (placed _ _)).trans (by rw [finishHandOff_pends, pending_idle hi]; rfl))
  · rw [row, handModeClaim_repeats (by rw [record]; exact heldIs.trans hmode), record, period]
    have room : HasRoom (chanPort m.chan)
        (setUnit v { unitAt v u with claim := { cl with grant := some g, keep := keep }, claimTimer := some keep } noted) :=
      hasRoom_congr hroom (noteAdmission_replies ..)
    exact congrArg _ ((answerTaken_room m.chan m.buf .modeClaim .done clamped [] true _ _ room).trans
      (by rw [answered_idle hi]))
  · have hfree : (unitAt v u).claim.state ≠ .free := by rcases hclaim with e | e <;> rw [e] <;> decide
    rw [row, handModeClaim_changes (by rw [record]; exact hfree) (by rw [record]; exact heldIs ▸ hother), record, period]
    dsimp only
    refine congrArg _ ((congrArg _ (placed _ _)).trans ?_)
    rw [finishHandOff_pends, pending_idle hi]
    unfold changingClaim
    rw [heldMode_eq]

/-! ### KEEP (R59) -/

section Keep
variable {m : ReqMsg} {v : UnitId} {d : UnitDef} {u : State}

/-- The channel holds the claim of a DEFINED unit on an ACTIVE bus, in ATTENDED or FLASH (R59). -/
structure Holds (c : ChanId) (v : UnitId) (d : UnitDef) (u : State) : Prop where
  defn : (unitAt v u).defn = some d
  bus : (busAt d.bus u).state = .active
  holder : (unitAt v u).claim.holder = some c
  mode : (unitAt v u).claim.state = .attended ∨ (unitAt v u).claim.state = .flash

/-- A KEEP of the holder passes every stage, whatever the freeze and the grants hold (R24, R59). -/
theorem refusalOf_keep (h : Holds m.chan v d u) : refusalOf m.chan (.keep v) u = none := by
  have on : OnActiveBus (.keep v) u := fun w hw => by cases hw; exact ⟨d, h.defn, h.bus⟩
  obtain ⟨unit, bus⟩ := unit_and_bus_pass_iff.mpr on
  exact refusalOf_none_iff.mpr ⟨unit, freezeStage_pass fun hf => hf.2.2 (.head _), bus, rfl,
    if_pos ((holdsClaim_iff ..).mpr ⟨h.holder, h.mode⟩), rfl, rfl, rfl⟩

theorem check_keep (hs : Spells m (.keep v)) (h : Holds m.chan v d u) :
    check m.chan (rowBody .keep m) u = .admitted (.keep v) none (Plan.flat 0) :=
  check_of_stages hs (refusalOf_keep h) (selectGrant_of_no_class rfl)

/-- A request that costs nothing, under no grant, is only reported, where its kind writes no record (R39, R40). -/
theorem noteAdmission_uncharged {r : Request} (h : admittedDetail r = none) (c : ChanId) (u : State) :
    noteAdmission c r none 0 u = report ⟨.admitted, some (chanPort c), r.unit.bind fun v => unitBus v u, r.unit⟩ u := by
  unfold noteAdmission recordAdmitted
  rw [h]
  rfl

/-- The claim timer of a claim in ATTENDED or FLASH restarts (R58). -/
theorem restartClaimTimer_held (h : (unitAt v u).claim.state = .attended ∨ (unitAt v u).claim.state = .flash) :
    restartClaimTimer v u = setUnit v { unitAt v u with claimTimer := some (unitAt v u).claim.keep } u := by
  unfold restartClaimTimer
  refine if_pos ?_
  rcases h with e | e <;> rw [e] <;> rfl

/-- A message of the holder's channel, IDLE or STREAMING, is taken and decided at once, and its answer leaves the channel as it
was but for its mark. -/
theorem exec_keep {k : CtxId} {s : State} (ht : TakenAt s u) (hc : AtIdle m u ∨ AtStream m k u)
    (hroom : HasRoom (chanPort m.chan) u) (hs : Spells m (.keep v)) (h : Holds m.chan v d u) :
    exec (.keep m) s = .next
      (setChan m.chan (answeredChannel m u) (pushReply (requestReply m.chan m.buf .keep .done false [])
        (setUnit v { unitAt v u with claimTimer := some (unitAt v u).claim.keep }
          (report ⟨.admitted, some (chanPort m.chan), some d.bus, some v⟩ u)))) := by
  have taken : arrive .keep m u = decideTaken m.chan m.buf (rowBody .keep m)
      (setChan m.chan (takeMessage m.buf (rowBody .keep m) (chanAt m.chan u)) u) := by
    rcases hc with hi | hst
    · exact arrive_idle hi (by simp)
    · exact arrive_stream hst (Or.inl (by decide))
  have answered : settleChan (freeBuffer m.buf (takeMessage m.buf (rowBody .keep m) (chanAt m.chan u))) =
      answeredChannel m u := by
    rcases hc with hi | hst
    · exact answered_idle hi .keep
    · exact answered_stream hst .keep
  have noted : noteAdmission m.chan (.keep v) none (Plan.flat 0).cost u =
      report ⟨.admitted, some (chanPort m.chan), some d.bus, some v⟩ u := by
    refine (noteAdmission_uncharged rfl m.chan u).trans ?_
    have bus : unitBus v u = some d.bus := by unfold unitBus; rw [h.defn]; rfl
    exact congrArg (fun b => report ⟨.admitted, some (chanPort m.chan), b, some v⟩ u) bus
  have row : exec (.keep m) s = .next (arrive .keep m u) := (exec_row .keep m s).trans (running_at ht)
  rw [row, taken, decide_admitted (k := .keep) (r := .keep v) rfl (check_keep hs h), noted]
  have timer := restartClaimTimer_held (v := v) (u := setChan m.chan (takeMessage m.buf (rowBody .keep m) (chanAt m.chan u))
    (report ⟨.admitted, some (chanPort m.chan), some d.bus, some v⟩ u))
    (by rw [unitAt_setChan, report_unitAt]; exact h.mode)
  rw [unitAt_setChan, report_unitAt] at timer
  have room : HasRoom (chanPort m.chan) (setUnit v { unitAt v u with claimTimer := some (unitAt v u).claim.keep }
      (report ⟨.admitted, some (chanPort m.chan), some d.bus, some v⟩ u)) :=
    hasRoom_congr hroom (by simp)
  unfold handOff
  dsimp only
  rw [timer]
  exact congrArg _ ((answerTaken_room m.chan m.buf .keep .done false [] true _ _ room).trans (by rw [answered]))

theorem check_keep_bus (hs : Spells m (.keep v)) (hd : (unitAt v u).defn = some d) {st : Status}
    (hb : busRefusal (busAt d.bus u).state = some st) : check m.chan (rowBody .keep m) u = .refused st := by
  refine check_refused hs (refusalOf_bus (unitStage_pass ?_) (freezeStage_pass fun hf => hf.2.2 (by simp [Request.kind]))
    ((busStage_defined rfl hd).trans hb))
  rintro ⟨w, hw, hnone⟩
  cases hw
  rw [hd] at hnone
  cases hnone

end Keep

/-- Settles O32: the stages a KEEP passes, what its hand-off writes, and the bus stage of a bus that is not ACTIVE. -/
theorem keepRestartsTheClaimTimer : Obligations.KeepRestartsTheClaimTimer := by
  intro m v d s u hs hd
  refine ⟨fun k hb hh hm => ?_, fun hoff => check_keep_bus hs hd (by rw [hoff]; rfl),
    fun hasleep => check_keep_bus hs hd (by rw [hasleep]; rfl)⟩
  have holds : Holds m.chan v d u := ⟨hd, hb, hh, hm⟩
  exact ⟨check_keep hs holds, congrArg (·, _) (restartClaimTimer_held hm),
    fun ht hc hroom => exec_keep ht hc hroom hs holds⟩

/-! ### MODE RELEASE (R61, R62, R64) -/

section Release
variable {v : UnitId} {h : ChanId} {s : State}

/-- A claim held in ATTENDED or FLASH has left: its fields, its timer and the base request's place (R61). -/
theorem leaveClaim_held_unit (hh : (unitAt v s).claim.holder = some h)
    (hs : (unitAt v s).claim.state = .attended ∨ (unitAt v s).claim.state = .flash) (r : ClaimReason)
    (hp : (unitAt v s).out.isSome = true ∨ (unitAt v s).wait = []) :
    ((unitAt v s).out = none → (unitAt v (leaveClaim v r s)).out = some baseEntry) ∧
    ((unitAt v s).out ≠ none → (unitAt v (leaveClaim v r s)).out = (unitAt v s).out ∧
      (unitAt v (leaveClaim v r s)).wait.head? = some baseEntry) ∧
    (∀ e ∈ (unitAt v (leaveClaim v r s)).wait, needsClaimOf h e = false) := by
  rw [leaveClaim_working hh hs]
  generalize hleft : setUnit v { unitAt v s with claim := leavingClaim (unitAt v s).claim r, claimTimer := none } s = t
  have out : (unitAt v t).out = (unitAt v s).out := by rw [← hleft, unitAt_setUnit]
  have wait : (unitAt v t).wait = (unitAt v s).wait := by rw [← hleft, unitAt_setUnit]
  rw [unitAt_congr (units_endHolderWork_all v h (placeEntry v baseEntry t)), unitAt_setUnit]
  obtain ⟨-, -, served, queued⟩ := placeEntry_base (v := v) (s := t) (by rw [out, wait]; exact hp)
  rw [out] at served queued
  refine ⟨fun ho => (served ho).1, fun ho => ⟨(queued ho).1, ?_⟩, fun e he => ?_⟩
  · show List.head? (List.filter _ (unitAt v (placeEntry v baseEntry t)).wait) = _
    rw [(queued ho).2]
    rfl
  · simpa using (List.mem_filter.mp he).2

/-- R64: what the former holder's claim carried is over once the claim has left. -/
theorem leaveClaim_ends_work (hh : (unitAt v s).claim.holder = some h)
    (hs : (unitAt v s).claim.state = .attended ∨ (unitAt v s).claim.state = .flash) (r : ClaimReason) :
    (∀ k, StreamsOver (fun x => x.chan = h ∧ x.unit = v) k (leaveClaim v r s)) ∧
      JobsOver (fun j => j.kind = .write ∧ j.chan = h ∧ j.unit = v) (leaveClaim v r s) := by
  rw [leaveClaim_working hh hs]
  exact endHolderWork_over ..

/-- R61: the fields of a claim that leaves ATTENDED or FLASH. -/
theorem leaveClaim_held_claim (hs : (unitAt v s).claim.state = .attended ∨ (unitAt v s).claim.state = .flash)
    (r : ClaimReason) : (unitAt v (leaveClaim v r s)).claim = { (unitAt v s).claim with
      state := .leaving, reason := some r, target := none, prior := none,
      left := some (if (unitAt v s).claim.state = .flash then .flash else .attended) } ∧
    (unitAt v (leaveClaim v r s)).claimTimer = none := by
  obtain ⟨claim, timer⟩ := leaveClaim_claim v r s (by unfold canLeave; rcases hs with e | e <;> rw [e] <;> rfl)
  rw [claim, ← leftMode_held hs]
  exact ⟨rfl, timer⟩

theorem handModeRelease_eq (v : UnitId) (s : State) : (handModeRelease v s).1 =
    setUnit v { unitAt v (leaveClaim v .released s) with
      claim := { (unitAt v (leaveClaim v .released s)).claim with releasePending := true } } (leaveClaim v .released s) := rfl

theorem winds_handModeRelease (v : UnitId) (s : State) : Winds s (handModeRelease v s).1 := by
  rw [handModeRelease_eq]
  refine winds_setUnit (winds_leaveClaim (Winds.refl _) v .released) v _ rfl fun hc => ?_
  have left : canLeave (unitAt v (leaveClaim v .released s)).claim = true := hc
  rw [canLeave_leaveClaim] at left
  cases left

/-- The claim of an admitted MODE RELEASE (R61, R62). -/
theorem handModeRelease_claim (hs : (unitAt v s).claim.state = .attended ∨ (unitAt v s).claim.state = .flash) :
    (unitAt v (handModeRelease v s).1).claim = { (unitAt v s).claim with
      state := .leaving, reason := some .released, target := none, prior := none, releasePending := true,
      left := some (if (unitAt v s).claim.state = .flash then .flash else .attended) } ∧
    (unitAt v (handModeRelease v s).1).claimTimer = none := by
  obtain ⟨claim, timer⟩ := leaveClaim_held_claim hs .released
  rw [handModeRelease_eq, unitAt_setUnit]
  dsimp only
  rw [claim]
  exact ⟨rfl, timer⟩

end Release

/-- Settles O33: the holder's claim leaves, what R64 ends is over, and the release pends. -/
theorem modeReleaseLeaves : Obligations.ModeReleaseLeaves := by
  intro m v s u ht hi hs hr hp cl
  obtain ⟨hh, hm⟩ := holder_of_release_admitted hr
  have row : exec (.modeRelease m) s = .next (finishHandOff m.chan m.buf .modeRelease (.pends (.modeRelease v) false)
      (handModeRelease v (setChan m.chan (takeMessage m.buf (rowBody .modeRelease m) (chanAt m.chan u))
        (noteAdmission m.chan (.modeRelease v) none 0 u))).1) :=
    exec_request_idle ht hi hs hr (selectGrant_of_no_class rfl) (by simp [Request.kind])
  rw [noteAdmission_setChan]
  generalize htaken : setChan m.chan (takeMessage m.buf (rowBody .modeRelease m) (chanAt m.chan u))
    (noteAdmission m.chan (.modeRelease v) none 0 u) = taken at row ⊢
  have record : unitAt v taken = unitAt v u := by rw [← htaken, unitAt_setChan, unitAt_noteAdmission]
  rw [← record] at hh hm hp ⊢
  obtain ⟨served, queued, waiting⟩ := leaveClaim_held_unit hh hm .released hp
  obtain ⟨streams, jobs⟩ := leaveClaim_ends_work hh hm .released
  have winds := winds_handModeRelease v taken
  obtain ⟨claim, timer⟩ := handModeRelease_claim hm
  have unit : unitAt v (handModeRelease v taken).1 = { unitAt v (leaveClaim v .released taken) with
      claim := { (unitAt v (leaveClaim v .released taken)).claim with releasePending := true } } :=
    (congrArg _ (handModeRelease_eq ..)).trans (unitAt_setUnit ..)
  have ended : (handModeRelease v taken).1.map = (leaveClaim v .released taken).map ∧
      ∀ k, streamAt k (handModeRelease v taken).1 = streamAt k (leaveClaim v .released taken) := ⟨rfl, fun _ => rfl⟩
  generalize (handModeRelease v taken).1 = w at row winds claim timer unit ended
  have same : unitAt v (finishHandOff m.chan m.buf .modeRelease (.pends (.modeRelease v) false) w) = unitAt v w :=
    unitAt_setChan ..
  refine ⟨_, w, row, winds, ⟨_, rfl, rfl⟩, ?_, same ▸ timer, fun ho => ?_, fun ho => ?_, fun e he => ?_,
    fun j hj => ?_, fun k x hx hc hu => ?_⟩
  · rw [same, claim, record]
  · rw [same, unit]
    exact served ho
  · rw [same, unit]
    exact queued ho
  · rw [same, unit] at he
    exact waiting e he
  · exact jobs j (ended.1 ▸ hj)
  · exact streams k x (ended.2 k ▸ hx) ⟨hc, hu⟩

end Sys2Proof.Machine
end

section
/-! The completion of an outstanding entry (R52, R55, R56, R61, R63) and of a channel's active request (R75). -/

namespace Sys2Proof.Machine

section Deliver
variable {v : UnitId} {e : Entry} {c : ChanId} {r : Result} {s : State}

/-- R52: the outstanding entry's result is delivered, and then the entry is gone. -/
theorem completeOut_eq (ho : (unitAt v s).out = some e) (r : Result) : completeOut v r s =
    setUnit v { unitAt v (deliverResult v e r s) with out := none, awaited := none } (deliverResult v e r s) := by
  unfold completeOut
  rw [ho]

theorem deliverResult_request (hs : e.source = .channel c) (hm : ∀ mode, e.msg ≠ .modeEnter mode) :
    deliverResult v e r s = completeActive c (resultStatus r) (resultPayload r) s := by
  unfold deliverResult
  rw [hs]
  dsimp only
  split
  · next mode h => exact absurd h (hm mode)
  · rfl

theorem deliverResult_modeEnter {mode : Mode} (hs : e.source = .channel c) (hm : e.msg = .modeEnter mode) :
    deliverResult v e r s = modeEnterDone v c e.keep r s := by
  unfold deliverResult
  rw [hs, hm]

theorem deliverResult_block {k : CtxId} (hs : e.source = .stream k c) : deliverResult v e r s = blockDone k r s := by
  unfold deliverResult
  rw [hs]

theorem deliverResult_row (hs : e.source = .mapRow c) : deliverResult v e r s = rowDone r s := by
  unfold deliverResult
  rw [hs]

/-- The base request is answered by a POSITIVE or a NEGATIVE, and not by the reply timer (R61). -/
theorem deliverResult_base {answered : Bool} (hs : e.source = .base)
    (hr : ((∃ data, r = .positive data) ∨ (∃ x, r = .negative x)) ∧ answered = true ∨
      (r = .timeout ∧ answered = false)) :
    deliverResult v e r s = baseDone v answered s := by
  unfold deliverResult
  rw [hs]
  rcases hr with ⟨⟨data, rfl⟩ | ⟨x, rfl⟩, rfl⟩ | ⟨rfl, rfl⟩ <;> rfl

end Deliver

section ModeEnter
variable {v : UnitId} {c : ChanId} {keep : Nat} {s : State}

/-- The claim, the claim timer and the presence timer of a unit whose MODE ENTER has completed (R55, R56). -/
def enteredUnit (un : UnitRec) (mode : Mode) (keep : Nat) (presence : Option Nat) : UnitRec :=
  { un with claim := enteredClaim un.claim mode keep, claimTimer := some keep, presence := presence }

/-- R55, R56: the target mode is entered, with a CLAIM_START record that says whether a mode was held before. -/
theorem modeEnterDone_positive {target : Mode} (hs : (unitAt v s).claim.state = .entering)
    (ht : (unitAt v s).claim.target = some target) (data : List Byte) : modeEnterDone v c keep (.positive data) s =
    writeRecord (some (chanPort c)) (some c) (unitAt v s).claim.grant (some v)
      (.claimStart target (unitAt v s).claim.prior.isSome)
      (completeActive c .done [] (setUnit v (enteredUnit (unitAt v s) target keep
        (if (unitAt v s).claim.prior.isSome then (unitAt v s).presence else some 1000)) s)) := by
  have entered : targetMode (unitAt v s).claim = target := by unfold targetMode; rw [ht]; rfl
  refine (if_pos hs).trans ?_
  unfold modeEnterPositive
  dsimp only
  rw [entered]
  rfl

theorem modeEnterFails_first (hp : (unitAt v s).claim.prior = none) : modeEnterFails v s =
    setUnit v { unitAt v s with claim := Claim.free, claimTimer := none, presence := none } s := by
  unfold modeEnterFails
  dsimp only
  rw [hp]
  rfl

theorem modeEnterFails_change {prior : Mode} (hp : (unitAt v s).claim.prior = some prior) : modeEnterFails v s =
    setUnit v (enteredUnit (unitAt v s) prior (unitAt v s).claim.keep (unitAt v s).presence) s := by
  unfold modeEnterFails
  dsimp only
  rw [hp]
  rfl

/-- R55, R56: an ENTERING claim whose MODE ENTER ends NEGATIVE or TIMEOUT. -/
theorem modeEnterDone_fails {r : Result} {st : Status} {payload : List Byte} (hs : (unitAt v s).claim.state = .entering)
    (hr : (∃ reason, r = .negative reason ∧ st = .unitNegative ∧ payload = [reason]) ∨
      (r = .timeout ∧ st = .timeout ∧ payload = [])) :
    modeEnterDone v c keep r s = completeActive c st payload (modeEnterFails v s) := by
  rcases hr with ⟨reason, rfl, rfl, rfl⟩ | ⟨rfl, rfl, rfl⟩ <;> exact if_pos hs

/-- R63: the MODE ENTER of a claim that left while ENTERING answers for the claim's leaving. -/
theorem modeEnterDone_left {r : Result} (hs : (unitAt v s).claim.state ≠ .entering) (hr : ∀ st, r ≠ .ended st) :
    modeEnterDone v c keep r s =
      completeActive c (if (unitAt v s).claim.reason = some .interlock then .interlock else .withdrawn) [] s := by
  have answer : leavingAnswer (unitAt v s).claim.reason =
      if (unitAt v s).claim.reason = some .interlock then .interlock else .withdrawn := by
    cases (unitAt v s).claim.reason with
    | none => rfl
    | some reason => cases reason <;> rfl
  rw [← answer]
  cases r with
  | positive data => exact if_neg hs
  | negative reason => exact if_neg hs
  | timeout => exact if_neg hs
  | ended st => exact absurd rfl (hr st)

/-- R61: the base request of a LEAVING claim frees it, writes its CLAIM_END record and answers a pending release. -/
theorem baseDone_leaving {reason : ClaimReason} (hs : (unitAt v s).claim.state = .leaving)
    (hr : (unitAt v s).claim.reason = some reason) (answered : Bool) : baseDone v answered s =
    answerRelease (unitAt v s).claim (writeRecord ((unitAt v s).claim.holder.map chanPort) (unitAt v s).claim.holder
      (unitAt v s).claim.grant (some v) (.claimEnd reason answered)
      (setUnit v { unitAt v s with claim := Claim.free, claimTimer := none, presence := none } s)) := by
  unfold baseDone
  dsimp only
  rw [hs, hr]
  rfl

theorem answerRelease_none {cl : Claim} (h : cl.releasePending = false) : answerRelease cl s = s := by
  unfold answerRelease
  rw [h]

theorem answerRelease_pending {cl : Claim} {h : ChanId} (hp : cl.releasePending = true) (hh : cl.holder = some h) :
    answerRelease cl s = completeActive h .done [] s := by
  unfold answerRelease
  rw [hp, hh]

end ModeEnter

/-! ### The active request (R75) -/

section Active
variable {c : ChanId} {st : Status} {payload : List Byte} {a : ActiveReq} {s : State}

theorem isWorking_iff (ch : Channel) : isWorking ch = true ↔ ch.state ≠ .closed ∧ ch.state ≠ .halted := by
  unfold isWorking
  cases ch.state <;> decide

/-- R69, R75: a channel without its active request has the state of the work that is left; CLOSED and HALTED stay. -/
theorem clearActive_eq (b : Buf) (ch : Channel) : clearActive b ch = { freeBuffer b ch with
    active := none
    state := if ch.state = .closed ∨ ch.state = .halted then ch.state
      else if ch.binding ≠ none then .streaming else if ch.staged ≠ none then .busy else .idle } := by
  have work := stateOfWork_eq { freeBuffer b ch with active := none }
  have frame : (freeBuffer b ch).state = ch.state ∧ (freeBuffer b ch).binding = ch.binding ∧
      (freeBuffer b ch).staged = ch.staged := by cases b <;> exact ⟨rfl, rfl, rfl⟩
  obtain ⟨state, binding, staged⟩ := frame
  unfold clearActive settleChan
  rw [work]
  simp only [state, binding, staged, ne_eq, not_true_eq_false, false_or]

theorem completeActive_none (h : (chanAt c s).active = none) : completeActive c st payload s = s := by
  unfold completeActive
  rw [h]

/-- A channel that is CLOSED or HALTED discards its reply and keeps its state. -/
theorem completeActive_stopped (h : (chanAt c s).active = some a)
    (hc : (chanAt c s).state = .closed ∨ (chanAt c s).state = .halted) :
    completeActive c st payload s = setChan c { freeBuffer a.buf (chanAt c s) with active := none } s := by
  have idle : ¬ isWorking (chanAt c s) = true := fun w =>
    hc.elim ((isWorking_iff _).mp w).1 ((isWorking_iff _).mp w).2
  unfold completeActive
  rw [h]
  dsimp only
  rw [if_neg idle, clearActive_eq, if_pos hc]
  cases a.buf <;> rfl

/-- A channel at work offers its reply, and its next state is that of the work that is left (R69). -/
theorem completeActive_working (h : (chanAt c s).active = some a) (hc : (chanAt c s).state ≠ .closed)
    (hh : (chanAt c s).state ≠ .halted) (hr : HasRoom (chanPort c) s) : completeActive c st payload s = setChan c
      { freeBuffer a.buf (chanAt c s) with
        active := none
        state := if (chanAt c s).binding ≠ none then .streaming else if (chanAt c s).staged ≠ none then .busy else .idle }
      (pushReply (requestReply c a.buf a.kind st a.clamped payload) s) := by
  have offered : offerReply (requestReply c a.buf a.kind st a.clamped payload) true s =
      pushReply (requestReply c a.buf a.kind st a.clamped payload) s := offerReply_room hr
  unfold completeActive
  rw [h]
  dsimp only
  rw [if_pos ((isWorking_iff _).mpr ⟨hc, hh⟩)]
  refine (congrArg (fun t => setChan c (clearActive a.buf (chanAt c t)) t) offered).trans ?_
  rw [show ∀ r, chanAt c (pushReply r s) = chanAt c s from fun _ => rfl, clearActive_eq, if_neg (not_or.mpr ⟨hc, hh⟩)]

end Active

/-- Settles O46: by the outstanding entry's source, and by the state of the channel whose request completes. -/
theorem entriesCompleteToTheirSources : Obligations.EntriesCompleteToTheirSources := by
  refine ⟨fun v e r s ho => ?_, fun c st payload s => ?_⟩
  · intro un cl gone entered freed
    have delivered : ∀ {t}, deliverResult v e r s = t → completeOut v r s = gone t := fun h =>
      (completeOut_eq ho r).trans (congrArg gone h)
    have mode_entered : ∀ mode keep presence, setUnit v (enteredUnit un mode keep presence) s = entered mode keep presence :=
      fun mode _ _ => by cases mode <;> rfl
    refine ⟨fun c hs hm => ?_, fun k c hs => delivered (deliverResult_block hs), fun c hs => delivered (deliverResult_row hs),
      fun c mode st hs hm hr => ?_, fun c mode target hs hm hstate htarget => ⟨fun data hr hp => ?_, fun data prior hr hp => ?_,
        fun st payload hr => ⟨fun hp => ?_, fun prior hp => ?_⟩⟩, fun c mode hs hm hstate hr => ?_,
      fun reason answered hs hstate hreason hr => ⟨fun hp => ?_, fun h hp hh => ?_⟩⟩
    · refine delivered ((deliverResult_request hs hm).trans ?_)
      cases r <;> rfl
    · exact delivered ((deliverResult_modeEnter hs hm).trans (by rw [hr]; rfl))
    · refine delivered ((deliverResult_modeEnter hs hm).trans ?_)
      rw [hr, modeEnterDone_positive hstate htarget, ← mode_entered, hp]
      rfl
    · refine delivered ((deliverResult_modeEnter hs hm).trans ?_)
      rw [hr, modeEnterDone_positive hstate htarget, ← mode_entered, hp]
      rfl
    · refine delivered ((deliverResult_modeEnter hs hm).trans ?_)
      rw [modeEnterDone_fails hstate hr, modeEnterFails_first hp]
    · refine delivered ((deliverResult_modeEnter hs hm).trans ?_)
      rw [modeEnterDone_fails hstate hr, modeEnterFails_change hp, ← mode_entered]
    · exact delivered ((deliverResult_modeEnter hs hm).trans (modeEnterDone_left hstate hr))
    · exact delivered ((deliverResult_base hs hr).trans ((baseDone_leaving hstate hreason answered).trans
        (answerRelease_none hp)))
    · exact delivered ((deliverResult_base hs hr).trans ((baseDone_leaving hstate hreason answered).trans
        (answerRelease_pending hp hh)))
  · exact ⟨completeActive_none, fun a ha => ⟨completeActive_stopped ha, completeActive_working ha⟩⟩

end Sys2Proof.Machine
end

section
/-! The rows of the internal steps (R52, R75, R85, R92, R103 to R105). -/

namespace Sys2Proof.Machine

variable {s : State}

theorem runningInternal_next (h : s.inReset = false) (f : State → State) : runningInternal f s = .next (f s) := by
  unfold runningInternal
  rw [h]
  rfl

/-! ### WAIT_LIST_PROMOTION -/

section Wait
variable {v : UnitId} {d : UnitDef} {e : Entry} {rest : List Entry}

/-- R52: the head of the wait list is the outstanding entry and stands in its bus's queue. -/
theorem promoteWait_due (hd : (unitAt v s).defn = some d) (ho : (unitAt v s).out = none)
    (hw : (unitAt v s).wait = e :: rest) : promoteWait v s =
    setUnit v { unitAt v s with out := some e, wait := rest, tag := (unitAt v s).tag + 1 }
      (joinQueue d.bus (queueEntry v e d s) s) := by
  have shorter : unitAt v (setUnit v { unitAt v s with wait := rest } s) = { unitAt v s with wait := rest } := unitAt_setUnit ..
  have promoted : promoteWait v s = makeOutstanding v e (setUnit v { unitAt v s with wait := rest } s) := by
    unfold promoteWait
    dsimp only
    rw [ho, hw]
  rw [promoted, makeOutstanding_defined (by rw [shorter]; exact hd), shorter]
  unfold joinQueue
  rw [busAt_setUnit, ← setUnit_setBus, setUnit_setUnit]
  unfold queueEntry
  rw [shorter]
  rfl

theorem promoteWait_idle (h : (unitAt v s).out ≠ none ∨ (unitAt v s).wait = []) : promoteWait v s = s := by
  unfold promoteWait
  dsimp only
  split
  · next ho hw =>
    rcases h with out | wait
    · exact absurd ho out
    · rw [wait] at hw; cases hw
  · rfl

/-- R52, R75: with no promotion due the step before a staged request's decision changes nothing. -/
theorem promoteWaits_idle (h : ∀ v, (unitAt v s).out = none → (unitAt v s).wait = []) : promoteWaits s = s :=
  List.foldl_fixed' (fun v => promoteWait_idle (Decidable.or_iff_not_imp_left.mpr fun ho => h v (not_not.mp ho))) _

end Wait

/-! ### STREAM_CONTEXT_FREED -/

section Free
variable {k : CtxId} {x : Stream}

theorem freeingDue_iff : freeingDue x = true ↔ x.release = true ∧ x.slotA = none := by
  unfold freeingDue
  rw [Bool.and_eq_true, Option.isNone_iff_eq_none]

/-- R92, R93: the status a stream ends with. -/
theorem endingStatus_eq (x : Stream) : endingStatus x = match x.concluded with
    | some .failed => .streamFailed
    | some .aborted => .streamAborted
    | some .withdrawn => .withdrawn
    | none => if x.confirmed = x.total then .done else .short := by
  unfold endingStatus
  cases x.concluded with
  | none => rfl
  | some how => cases how <;> rfl

theorem freeStream_due (hx : streamAt k s = some x) (hr : x.release = true) (ha : x.slotA = none) : freeStream k s =
    setStream k none (setChan x.chan { chanAt x.chan s with
        binding := none
        state :=
          if (chanAt x.chan s).state = .closed ∨ (chanAt x.chan s).state = .halted then (chanAt x.chan s).state
          else if (chanAt x.chan s).active ≠ none ∨ (chanAt x.chan s).staged ≠ none then .busy else .idle }
      (writeRecord (some (chanPort x.chan)) (some x.chan) (some x.grant) (some x.unit)
        (.stream x.window x.start x.total (some (x.confirmed, endingStatus x))) s)) := by
  have settled := stateOfWork_eq { chanAt x.chan s with binding := none }
  unfold freeStream
  rw [hx]
  dsimp only
  rw [if_pos (freeingDue_iff.mpr ⟨hr, ha⟩)]
  unfold writeChanRecord settleChan
  rw [writeRecord_chanAt, settled]
  rfl

theorem freeStream_idle (h : ∀ x, streamAt k s = some x → x.release = false ∨ x.slotA ≠ none) : freeStream k s = s := by
  unfold freeStream
  cases hx : streamAt k s with
  | none => rfl
  | some x =>
    refine if_neg fun due => ?_
    obtain ⟨release, slot⟩ := freeingDue_iff.mp due
    rcases h x hx with hr | ha
    · rw [hr] at release; cases release
    · exact ha slot

end Free

/-! ### MAP_JOB_START -/

section Job
variable {j : Job} {r : RowReq}

/-- R110: the active job alone ends and the queue's head takes its place. -/
theorem endActive_held_or_notClaimed {st : Status} (hst : st = .held ∨ st = .notClaimed) (j : Job) (s : State) :
    endActive j st [] s = setMap { s.map with active := s.map.queue.head?, queue := s.map.queue.tail }
      (completeActive j.chan st [byte j.done, byte j.plan.length] s) := by
  have payload : jobPayload j st [] = [byte j.done, byte j.plan.length] := by rcases hst with rfl | rfl <;> rfl
  unfold endActive answerJob
  dsimp only
  rw [payload, completeActive_map]
  rfl

theorem startJob_due (ha : s.map.active = some j) (hs : s.map.slot = none) (hi : j.issuing = false)
    (hr : j.plan[j.done]? = some r) : startJob s = issueRow s := by
  obtain ⟨more, -⟩ := List.getElem?_eq_some_iff.mp hr
  have due : mapStartDue s.map = true := by
    unfold mapStartDue
    rw [ha, hs]
    dsimp only
    rw [hi, decide_eq_true more]
    rfl
  exact if_pos due

theorem startJob_idle (h : s.map.active = none ∨ s.map.slot ≠ none) : startJob s = s := by
  unfold startJob mapStartDue
  refine if_neg fun due => ?_
  split at due
  · next ha hs => exact h.elim (fun e => by rw [e] at ha; cases ha) fun e => e hs
  · cases due

theorem issueRow_held (ha : s.map.active = some j) (hr : reservedByOther j.chan (unitAt j.unit s).claim = true) :
    issueRow s = endActive j .held [] s := by
  unfold issueRow
  rw [ha]
  exact if_pos hr

theorem issueRow_notClaimed (ha : s.map.active = some j) (hr : reservedByOther j.chan (unitAt j.unit s).claim = false)
    (hk : j.kind = .write) (hc : holdsClaim j.chan (unitAt j.unit s).claim = false) :
    issueRow s = endActive j .notClaimed [] s := by
  unfold issueRow
  rw [ha]
  dsimp only
  rw [hr, hk, hc]
  rfl

theorem issueRow_placed (ha : s.map.active = some j) (hr : reservedByOther j.chan (unitAt j.unit s).claim = false)
    (hc : j.kind = .read ∨ holdsClaim j.chan (unitAt j.unit s).claim = true) (hp : j.plan[j.done]? = some r) :
    issueRow s = placeEntry j.unit (rowEntry j r)
      (setMap { s.map with active := some { j with issuing := true }, slot := some ⟨j.unit, false⟩ } s) := by
  have carried : ¬ (j.kind == .write && !holdsClaim j.chan (unitAt j.unit s).claim) = true := by
    rcases hc with hk | hh
    · rw [hk]; exact Bool.false_ne_true
    · rw [hh, Bool.not_true, Bool.and_false]; exact Bool.false_ne_true
  unfold issueRow
  rw [ha]
  dsimp only
  rw [if_neg (by rw [hr]; exact Bool.false_ne_true), if_neg carried, hp]

end Job

/-! ### STAGED_REQUEST_PROMOTION and CHANNEL_DRAINED -/

section Chan
variable {c : ChanId} {b : Buf} {body : List Byte}

theorem stagedDue_iff (ch : Channel) : stagedDue ch = true ↔
    (ch.state ≠ .closed ∧ ch.state ≠ .halted) ∧ ch.active = none ∧ ch.staged ≠ none := by
  unfold stagedDue
  rw [Bool.and_eq_true, Bool.and_eq_true, isWorking_iff, Option.isNone_iff_eq_none, Option.isSome_iff_ne_none, and_assoc]

theorem promoteStagedRow_due (hw : ∀ v, (unitAt v s).out = none → (unitAt v s).wait = [])
    (hc : (chanAt c s).state ≠ .closed) (hh : (chanAt c s).state ≠ .halted) (ha : (chanAt c s).active = none)
    (hs : (chanAt c s).staged = some b) (hb : bufferAt b (chanAt c s) = some body) :
    promoteStagedRow c s = decideTaken c b body (setChan c { chanAt c s with staged := none } s) := by
  unfold promoteStagedRow
  rw [if_pos ((stagedDue_iff _).mpr ⟨⟨hc, hh⟩, ha, by rw [hs]; exact Option.some_ne_none b⟩), promoteWaits_idle hw]
  unfold promoteStaged
  dsimp only
  rw [hs]
  dsimp only
  rw [hb]

theorem drainDue_iff (ch : Channel) : drainDue ch = true ↔
    ch.state = .halted ∧ ch.clearPending = true ∧ ch.active = none ∧ ch.binding = none := by
  unfold drainDue isDrained
  simp only [Bool.and_eq_true, beq_iff_eq, Option.isNone_iff_eq_none, and_assoc]

end Chan

/-- Settles O48, row by row: where the step is due it acts, and elsewhere it changes nothing. -/
theorem internalStepsAreTaken : Obligations.InternalStepsAreTaken := by
  intro s hreset
  have row : ∀ {f : State → State} {t}, f s = t → runningInternal f s = .next t := fun h =>
    (runningInternal_next hreset _).trans (congrArg _ h)
  refine ⟨fun v d e rest hd ho hw => row (promoteWait_due hd ho hw), fun v h => row (promoteWait_idle h),
    fun k x hx hr ha => row ((freeStream_due hx hr ha).trans (by rw [endingStatus_eq] <;> rfl)),
    fun k h => row (freeStream_idle h),
    fun j r ha hs hi hp => ?_, fun h => row (startJob_idle h),
    fun c b body hw hc hh ha hs hb => row (promoteStagedRow_due hw hc hh ha hs hb), fun c h => row (if_neg fun due => ?_),
    fun c hs hp ha hb => row (if_pos ((drainDue_iff _).mpr ⟨hs, hp, ha, hb⟩)), fun c h => row (if_neg fun due => ?_)⟩
  · have start := startJob_due ha hs hi hp
    exact ⟨fun hr => row (start.trans ((issueRow_held ha hr).trans (endActive_held_or_notClaimed (.inl rfl) j s))),
      fun hr hk hc => row (start.trans ((issueRow_notClaimed ha hr hk hc).trans
        (endActive_held_or_notClaimed (.inr rfl) j s))),
      fun hr hc => row (start.trans (issueRow_placed ha hr hc hp))⟩
  · obtain ⟨⟨hc, hh⟩, ha, hs⟩ := (stagedDue_iff _).mp due
    exact h.elim hc (Or.rec hh (Or.rec (· ha) hs))
  · obtain ⟨hs, hp, ha, hb⟩ := (drainDue_iff _).mp due
    exact h.elim (· hs) (Or.rec (fun e => by rw [e] at hp; cases hp) (Or.rec (· ha) (· hb)))

end Sys2Proof.Machine
end

section
/-! The claim timer, the presence timer and the idle timer (R58, R60, R95). -/

namespace Sys2Proof.Machine

/-! ### The claim timer -/

section Claim
variable {v : UnitId} {s : State}

theorem claimTimerExpires_stopped (h : (unitAt v s).claimTimer = none) : claimTimerExpires v s = s := by
  unfold claimTimerExpires
  dsimp only
  rw [h]

theorem claimTimerExpires_running (h : (unitAt v s).claimTimer ≠ none) : claimTimerExpires v s =
    report ⟨.claimLapses, (unitAt v s).claim.holder.map chanPort, unitBus v s, some v⟩ (leaveClaim v .lapsed s) := by
  unfold claimTimerExpires
  dsimp only
  split
  · next hnone => exact absurd hnone h
  · rfl

end Claim

/-! ### The presence timer -/

section Presence
variable {v : UnitId} {d : UnitDef} {s : State}

theorem presenceQueued_iff (v : UnitId) (b : Bus) :
    presenceQueued v b = true ↔ ∃ q ∈ b.queue, q.unit = v ∧ q.source = none := by
  unfold presenceQueued
  simp only [List.any_eq_true, Bool.and_eq_true, beq_iff_eq, Option.isNone_iff_eq_none]

theorem queuePresence_eq (hd : (unitAt v s).defn = some d) : queuePresence v s =
    if ∃ q ∈ (busAt d.bus s).queue, q.unit = v ∧ q.source = none then s
    else setBus d.bus { busAt d.bus s with queue := (busAt d.bus s).queue ++
      [{ unit := v, msg := .presence, source := none, cls := 1, entered := s.moment, tag := 0, reqId := d.reqId }] } s := by
  unfold queuePresence
  rw [hd]
  exact if_congr (presenceQueued_iff ..) rfl rfl

theorem presenceExpires_stopped (h : (unitAt v s).presence = none) : presenceExpires v s = s := by
  unfold presenceExpires
  dsimp only
  rw [h]

theorem presenceExpires_leaving (h : (unitAt v s).presence ≠ none) (hl : (unitAt v s).claim.state = .leaving) :
    presenceExpires v s = setUnit v { unitAt v s with presence := none } s := by
  unfold presenceExpires
  dsimp only
  split
  · next hnone => exact absurd hnone h
  · exact if_pos hl

theorem presenceExpires_claimed (h : (unitAt v s).presence ≠ none) (hl : (unitAt v s).claim.state ≠ .leaving) :
    presenceExpires v s = queuePresence v (setUnit v { unitAt v s with presence := some 1000 } s) := by
  unfold presenceExpires
  dsimp only
  split
  · next hnone => exact absurd hnone h
  · exact if_neg hl

end Presence

/-! ### The idle timer -/

section Idle
variable {k : CtxId} {x : Stream} {s : State}

theorem idleExpires_free (h : streamAt k s = none) : idleExpires k s = s := by
  unfold idleExpires
  rw [h]

theorem idleExpires_stopped (hx : streamAt k s = some x) (h : x.idle = none) : idleExpires k s = s := by
  unfold idleExpires
  rw [hx]
  dsimp only
  rw [h]

theorem idleExpires_strict (hx : streamAt k s = some x) (h : x.idle ≠ none) (hp : x.policy = .strict) :
    idleExpires k s = concludeStream k .aborted s := by
  unfold idleExpires
  rw [hx]
  dsimp only
  split
  · next hnone => exact absurd hnone h
  · rw [hp]

theorem idleExpires_lenient (hx : streamAt k s = some x) (h : x.idle ≠ none) (hp : x.policy = .lenient) :
    idleExpires k s = report ⟨.streamGap, some (chanPort x.chan), unitBus x.unit s, some x.unit⟩
      (setStream k (some { x with idle := some 3000 }) s) := by
  unfold idleExpires
  rw [hx]
  dsimp only
  split
  · next hnone => exact absurd hnone h
  · rw [hp]
    rfl

theorem answerEnding_none (hx : streamAt k s = some x) (h : x.endPending = none) : answerEnding k s = s := by
  unfold answerEnding
  rw [hx]
  dsimp only
  rw [h]

/-- R96: a stream without a pending end is concluded and nothing is answered. -/
theorem concludeStream_quiet (hx : streamAt k s = some x) (hs : x.state ≠ .concluded) (h : x.endPending = none)
    (how : Concluded) : concludeStream k how s =
    setStream k (some { x with state := .concluded, concluded := some how, slotB := [], idle := none }) s := by
  have quiet := answerEnding_none (k := k)
    (s := setStream k (some { x with state := .concluded, concluded := some how, slotB := [], idle := none }) s)
    (streamAt_setStream ..) h
  unfold concludeStream
  rw [hx]
  dsimp only
  rw [if_neg hs, quiet, ite_self]

end Idle

/-- Settles O49, timer by timer: stopped, and expired in each of the states it finds. -/
theorem claimPresenceAndIdleTimers : Obligations.ClaimPresenceAndIdleTimers := by
  refine ⟨fun v s u ht => ?_, fun k s u ht => ?_⟩
  · intro un
    have claim : ∀ {t}, claimTimerExpires v u = t → exec (.claimTimerExpiry v) s = .next t := fun h =>
      (running_at ht).trans (congrArg _ h)
    have presence : ∀ {t}, presenceExpires v u = t → exec (.presenceTimerExpiry v) s = .next t := fun h =>
      (running_at ht).trans (congrArg _ h)
    refine ⟨fun h => claim (claimTimerExpires_stopped h), fun h hheld => ?_, fun h => presence (presenceExpires_stopped h),
      fun h hl => presence (presenceExpires_leaving h hl), fun d h hl hd => ?_⟩
    · obtain ⟨left, timer⟩ := leaveClaim_held_claim hheld .lapsed
      exact ⟨_, claim (claimTimerExpires_running h), winds_leaveClaim (Winds.refl u) v .lapsed, timer, left⟩
    · have queue := queuePresence_eq (v := v) (s := setUnit v { un with presence := some 1000 } u)
        (by rw [unitAt_setUnit]; exact hd)
      rw [busAt_setUnit] at queue
      exact ⟨fun hq => presence ((presenceExpires_claimed h hl).trans (queue.trans (if_pos hq))),
        fun hq => presence ((presenceExpires_claimed h hl).trans (queue.trans (if_neg hq)))⟩
  · have idle : ∀ {t}, idleExpires k u = t → exec (.idleTimerExpiry k) s = .next t := fun h =>
      (running_at ht).trans (congrArg _ h)
    refine ⟨fun x hx => ⟨fun h => idle (idleExpires_stopped hx h), fun h hp hs he => ?_,
      fun h hp => idle (idleExpires_lenient hx h hp)⟩, fun hx => idle (idleExpires_free hx)⟩
    exact idle ((idleExpires_strict hx h hp).trans (concludeStream_quiet hx (by rw [hs]; decide) he .aborted))

end Sys2Proof.Machine
end

section
/-! UNIT DEFINE, UNIT CLEAR and CLAIM END (R48, R49, R65). -/

namespace Sys2Proof.Machine

/-! ### The arguments of UNIT DEFINE (R48) -/

section Arguments
variable {v w : UnitId} {b : BusId} {a : UnitArgs} {s : State}

theorem idsOk_iff (p q : BitVec 16) : idsOk p q = true ↔ p.toNat ≤ 0x7FF ∧ q.toNat ≤ 0x7FF ∧ p ≠ q := by
  unfold idsOk
  simp only [Bool.and_eq_true, decide_eq_true_eq, bne_iff_ne, and_assoc]

theorem timeoutOk_iff (t : BitVec 16) : timeoutOk t = true ↔ 20 ≤ t.toNat ∧ t.toNat ≤ 2000 ∧ t.toNat % 10 = 0 := by
  unfold timeoutOk
  simp only [Bool.and_eq_true, decide_eq_true_eq, beq_iff_eq, and_assoc]

/-- The other DEFINED units on a bus. -/
def othersOn (v : UnitId) (b : BusId) (s : State) : List UnitId :=
  (List.finRange 16).filter fun w => w ≠ v ∧ unitBus w s = some b

theorem otherOnBus_eq (v w : UnitId) (b : BusId) (s : State) :
    otherOnBus v w b s = decide (w ≠ v ∧ unitBus w s = some b) := by
  unfold otherOnBus
  rw [Bool.eq_iff_iff, Bool.and_eq_true, bne_iff_ne, onBus_iff, decide_eq_true_eq]

theorem ninthUnit_iff (v : UnitId) (b : BusId) (s : State) : ninthUnit v b s = true ↔ 8 ≤ (othersOn v b s).length := by
  unfold ninthUnit countWhere
  rw [decide_eq_true_eq, funext fun w => otherOnBus_eq v w b s]
  rfl

theorem usesId_iff (d : UnitDef) (id : BitVec 16) :
    usesId d id = true ↔ d.reqId.toNat = id.toNat ∨ d.repId.toNat = id.toNat := by
  unfold usesId
  rw [Bool.or_eq_true, beq_iff_eq, beq_iff_eq]

/-- R48: an identifier of the command is taken where another unit on the bus is defined with it. -/
theorem idClash_iff (v : UnitId) (b : BusId) (a : UnitArgs) (s : State) : idClash v b a s = true ↔
    ∃ w ∈ othersOn v b s, ∃ d, (unitAt w s).defn = some d ∧ ∃ id, (id = a.reqId ∨ id = a.repId) ∧
      (d.reqId.toNat = id.toNat ∨ d.repId.toNat = id.toNat) := by
  unfold idClash othersOn
  rw [List.any_eq_true]
  refine exists_congr fun w => ?_
  rw [List.mem_filter, Bool.and_eq_true, otherOnBus_eq, and_assoc]
  refine and_congr Iff.rfl (and_congr Iff.rfl ?_)
  cases (unitAt w s).defn with
  | none => simp
  | some d => simp [usesId_iff]

theorem defineArgsOk_iff (v : UnitId) (b : BusId) (a : UnitArgs) (s : State) : defineArgsOk v b a s = true ↔
    a.reqId.toNat ≤ 0x7FF ∧ a.repId.toNat ≤ 0x7FF ∧ a.reqId ≠ a.repId ∧
    (∀ w ∈ othersOn v b s, ∀ d, (unitAt w s).defn = some d → ∀ id, id = a.reqId ∨ id = a.repId →
      d.reqId.toNat ≠ id.toNat ∧ d.repId.toNat ≠ id.toNat) ∧
    20 ≤ a.timeout.toNat ∧ a.timeout.toNat ≤ 2000 ∧ a.timeout.toNat % 10 = 0 ∧ WindowsGood a ∧
    (∀ j : Fin 4, a.mapsPresent.getLsbD j.val = true → MapGood a j) ∧ (othersOn v b s).length < 8 := by
  have free : (!idClash v b a s) = true ↔ ∀ w ∈ othersOn v b s, ∀ d, (unitAt w s).defn = some d →
      ∀ id, id = a.reqId ∨ id = a.repId → d.reqId.toNat ≠ id.toNat ∧ d.repId.toNat ≠ id.toNat := by
    rw [Bool.not_eq_true', Bool.eq_false_iff, Ne, idClash_iff]
    push Not
    rfl
  have room : (!ninthUnit v b s) = true ↔ (othersOn v b s).length < 8 := by
    rw [Bool.not_eq_true', Bool.eq_false_iff, Ne, ninthUnit_iff, not_le]
  unfold defineArgsOk
  rw [Bool.and_eq_true, Bool.and_eq_true, Bool.and_eq_true, Bool.and_eq_true, idsOk_iff, free, timeoutOk_iff, partsOk_iff,
    room]
  simp only [and_assoc]

/-- R45: the definition's identifiers are those of good arguments, which fit 11 bits. -/
theorem defOf_ids (b : BusId) (hq : a.reqId.toNat ≤ 0x7FF) (hp : a.repId.toNat ≤ 0x7FF) :
    (defOf a b).reqId.toNat = a.reqId.toNat ∧ (defOf a b).repId.toNat = a.repId.toNat :=
  ⟨toNat_ofNat_of_lt (by omega), toNat_ofNat_of_lt (by omega)⟩

/-- R46: a present window of good arguments. -/
theorem windowsOf_good (hw : WindowsGood a) (i : Fin 4) : (windowsOf a).get i =
    if a.windowsPresent.getLsbD i.val then some {
      base := (a.windows.get i).base
      granularity := if (a.windows.get i).granularity = 0 then .g256 else .g4096
      length := (a.windows.get i).length.toNat
      live := (a.windows.get i).attributes.getLsbD 0
      flashTarget := (a.windows.get i).attributes.getLsbD 1 } else none := by
  rw [windowsOf_get]
  by_cases hi : a.windowsPresent.getLsbD i.val = true
  · rw [if_pos hi, if_pos hi]
    exact if_pos (hw i hi)
  · rw [if_neg hi, if_neg hi]

/-- R47: a map of good arguments is present where its bit is set, and holds its fields. -/
theorem mapsOf_good (hw : WindowsGood a) (hm : ∀ j : Fin 4, a.mapsPresent.getLsbD j.val = true → MapGood a j) (j : Fin 4) :
    ((mapsOf a).get j).map (·.window.val) =
      (if a.mapsPresent.getLsbD j.val then some (a.maps.get j).window.toNat else none) ∧
    ∀ m, (mapsOf a).get j = some m →
      m.offset = (a.maps.get j).offset.toNat ∧ m.cell = (a.maps.get j).cell.toNat ∧
      m.columns = (a.maps.get j).columns.toNat ∧ m.rows = (a.maps.get j).rows.toNat ∧
      m.pitch = (a.maps.get j).pitch.toNat := by
  rw [mapsOf_get]
  by_cases hj : a.mapsPresent.getLsbD j.val = true
  · obtain ⟨d, spelled, window, fields⟩ := mapOf_of_good a j hw (hm j hj)
    rw [if_pos hj, if_pos hj, spelled]
    refine ⟨congrArg some window, fun m hmap => ?_⟩
    cases hmap
    exact fields
  · rw [if_neg hj, if_neg hj]
    exact ⟨rfl, fun m hmap => by cases hmap⟩

end Arguments

/-! ### The commands -/

section Commands
variable {env : Envelope} {a : UnitArgs} {unit : Byte} {v : UnitId} {b : BusId} {s : State}

theorem unitDefine_named (hv : a.unit.toNat = v.val) (hb : a.bus.toNat = if b = .ub0 then 0 else 1) :
    unitDefine env a s =
      if defineArgsOk v b a s = true then
        if unitHasWork v s then answerCommand env cmdUnitDefine .inUse [] s
        else answerCommand env cmdUnitDefine .done [] (setDefinition v (some (defOf a b)) s)
      else answerCommand env cmdUnitDefine .badArgument [] s := by
  unfold unitDefine
  rw [unitOf_eq _ v hv, busOf_eq _ b hb]
  dsimp only
  cases defineArgsOk v b a s <;> rfl

theorem unitDefine_unnamed (h : 16 ≤ a.unit.toNat ∨ 2 ≤ a.bus.toNat) :
    unitDefine env a s = answerCommand env cmdUnitDefine .badArgument [] s := by
  unfold unitDefine
  rcases h with hv | hb
  · rw [unitOf_none _ hv]
  · rw [busOf_none _ hb]
    cases unitOf a.unit <;> rfl

theorem unitClear_unnamed (h : 16 ≤ unit.toNat) :
    unitClear env unit s = answerCommand env cmdUnitClear .badArgument [] s := by
  unfold unitClear
  rw [unitOf_none _ h]

theorem unitClear_named (h : unit.toNat = v.val) : unitClear env unit s =
    if unitHasWork v s then answerCommand env cmdUnitClear .inUse [] s
    else answerCommand env cmdUnitClear .done [] (setDefinition v none s) := by
  unfold unitClear
  rw [unitOf_eq _ v h]

theorem claimEnd_unnamed (h : 16 ≤ unit.toNat) : claimEnd env unit s = answerCommand env cmdClaimEnd .badArgument [] s := by
  unfold claimEnd
  rw [unitOf_none _ h]

theorem claimEnd_named (h : unit.toNat = v.val) : claimEnd env unit s =
    if (unitAt v s).claim.state = .free then answerCommand env cmdClaimEnd .wrongState [] s
    else answerCommand env cmdClaimEnd .done [] (leaveClaim v .forced s) := by
  unfold claimEnd
  rw [unitOf_eq _ v h]

/-- R61: a LEAVING claim does not leave again. -/
theorem leaveClaim_leaving (h : (unitAt v s).claim.state = .leaving) (r : ClaimReason) : leaveClaim v r s = s :=
  leaveClaimSparing_still (by unfold canLeave; rw [h]; rfl) _ r

end Commands

/-- Settles O56: UNIT DEFINE by its arguments and the unit's work, UNIT CLEAR by the work, CLAIM END by the claim's state. -/
theorem unitsAndClaimsAreCommanded : Obligations.UnitsAndClaimsAreCommanded := by
  intro env a unit v b s u ht answered un work others window length size mapGood good names clear
  have good_iff : defineArgsOk v b a u = true ↔ good := defineArgsOk_iff v b a u
  have work_iff : unitHasWork v u = true ↔ work := unitHasWork_iff v u
  have define : ∀ {t}, unitDefine env a u = t → exec (.unitDefine env a) s = .next t := fun h =>
    (running_at ht).trans (congrArg _ h)
  have clears : ∀ {t}, unitClear env unit u = t → exec (.unitClear env unit) s = .next t := fun h =>
    (running_at ht).trans (congrArg _ h)
  have ends : ∀ {t}, claimEnd env unit u = t → exec (.claimEnd env unit) s = .next t := fun h =>
    (running_at ht).trans (congrArg _ h)
  refine ⟨fun hn hg => define ((unitDefine_named hn.1 hn.2).trans (if_neg (mt good_iff.mp hg))),
    fun h => define (unitDefine_unnamed h),
    fun hn hg hw => define ((unitDefine_named hn.1 hn.2).trans ((if_pos (good_iff.mpr hg)).trans (if_pos (work_iff.mpr hw)))),
    fun hn hg hw => ⟨defOf a b, define ((unitDefine_named hn.1 hn.2).trans ((if_pos (good_iff.mpr hg)).trans
      (if_neg (mt work_iff.mp hw)))), rfl, ?_⟩,
    fun h => ⟨clears (unitClear_unnamed h), ends (claimEnd_unnamed h)⟩, fun hv => ⟨fun hw => ?_, fun hw => ?_, fun hs => ?_,
      fun hs => ?_, fun hc => ?_⟩⟩
  · obtain ⟨hq, hp, -, -, -, -, -, windows, maps, -⟩ := hg
    obtain ⟨reqId, repId⟩ := defOf_ids b hq hp
    exact ⟨reqId, repId, rfl, windowsOf_good windows, fun j => (mapsOf_good windows maps j).1,
      fun j => (mapsOf_good windows maps j).2⟩
  · exact clears ((unitClear_named hv).trans (if_pos (work_iff.mpr hw)))
  · exact clears ((unitClear_named hv).trans (if_neg (mt work_iff.mp hw)))
  · exact ends ((claimEnd_named hv).trans (if_pos hs))
  · refine ends ((claimEnd_named hv).trans ((if_neg (by rw [hs]; decide)).trans ?_))
    rw [leaveClaim_leaving hs]
    rfl
  · have claimed : (unitAt v u).claim.state ≠ .free := fun hs => by
      change canLeave (unitAt v u).claim = true at hc
      unfold canLeave at hc
      rw [hs] at hc
      cases hc
    obtain ⟨claim, timer⟩ := leaveClaim_claim v .forced u hc
    refine ⟨leaveClaim v .forced u, ends ((claimEnd_named hv).trans (if_neg claimed)),
      winds_leaveClaim (Winds.refl u) v .forced, timer, ?_, fun hs => ?_, fun hs => ?_⟩
    · rw [claim]
      rfl
    · rw [claim]
      exact congrArg some ((leftMode_held (.inl hs)).trans (if_neg (by rw [hs]; decide)))
    · rw [claim]
      exact congrArg some ((leftMode_held (.inr hs)).trans (if_pos hs))

end Sys2Proof.Machine
end

section
/-! CHANNEL OPEN and CHANNEL CLOSE by the channel's state (R77, R78). -/

namespace Sys2Proof.Machine

/-! ### Their admission (R24, R28) -/

section Admission
variable {m : ReqMsg} {c : ChanId} {s : State}

/-- CHANNEL OPEN passes where the freeze does not stop it and an ACTIVE grant serves the port; it selects no grant. -/
theorem check_channelOpen (hp : Spells m .channelOpen)
    (hf : s.monitor.freeze = none ∨ chanPort c = .svp)
    (hg : ∃ i, (grantAt i s).state = .active ∧ (grantAt i s).requester = chanPort c) :
    check c (rowBody .channelOpen m) s = .admitted .channelOpen none (planOf .channelOpen s) := by
  have freeze : freezeStage c .channelOpen s = none :=
    freezeStage_pass ((not_frozen_iff c _ s).mpr (hf.imp_right Or.inl))
  have grant : grantStage c .channelOpen s = none := if_pos ((openGrantExists_iff _ s).mpr hg)
  exact check_of_stages hp (refusalOf_none_iff.mpr ⟨rfl, freeze, rfl, grant, rfl, rfl, rfl, rfl⟩)
    (selectGrant_of_no_class rfl)

/-- CHANNEL CLOSE is stopped by nothing but its form; it selects no grant. -/
theorem check_channelClose (hp : Spells m .channelClose) :
    check c (rowBody .channelClose m) s = .admitted .channelClose none (planOf .channelClose s) := by
  have freeze : freezeStage c .channelClose s = none :=
    freezeStage_pass ((not_frozen_iff c _ s).mpr (.inr (.inr (by decide))))
  exact check_of_stages hp (refusalOf_none_iff.mpr ⟨rfl, freeze, rfl, rfl, rfl, rfl, rfl, rfl⟩)
    (selectGrant_of_no_class rfl)

end Admission

/-- The admission of CHANNEL OPEN or CHANNEL CLOSE, which has neither a charge nor a record, reported (R37, R39, R40). -/
def admittedReported (c : ChanId) (s : State) : State := report ⟨.admitted, some (chanPort c), none, none⟩ s

theorem noteAdmission_channelOpen (c : ChanId) (cost : Nat) (s : State) :
    noteAdmission c .channelOpen none cost s = admittedReported c s := rfl

theorem noteAdmission_channelClose (c : ChanId) (cost : Nat) (s : State) :
    noteAdmission c .channelClose none cost s = admittedReported c s := rfl

/-- R68: a channel that has not drained has an active request or a stream binding. -/
theorem isDrained_iff (ch : Channel) : isDrained ch = true ↔ ch.active = none ∧ ch.binding = none := by
  unfold isDrained
  rw [Bool.and_eq_true, Option.isNone_iff_eq_none, Option.isNone_iff_eq_none]

/-- An answer the channel engine gives by itself, where its port's queue has room (R70, R161). -/
theorem answerOwn_room {c : ChanId} {s : State} (h : HasRoom (chanPort c) s) (b : Buf) (k : ReqKind) (st : Status) :
    answerOwn c b (kindCode k) st s = pushReply (requestReply c b k st false []) s :=
  offerReply_room h

/-! ### The rows -/

section Rows
variable {m : ReqMsg} {s u : State}

theorem exec_channelOpen (h : TakenAt s u) :
    exec (.channelOpen m) s = .next (deliverOpen m.chan m.buf (rowBody .channelOpen m) u) := running_at h

theorem exec_channelClose (h : TakenAt s u) :
    exec (.channelClose m) s = .next (deliverClose m.chan m.buf (rowBody .channelClose m) u) := running_at h

end Rows

section Open
variable {c : ChanId} {b : Buf} {body : List Byte} {s : State}

theorem deliverOpen_notReady (h : (chanAt c s).state = .closed) (hd : ¬ isDrained (chanAt c s) = true) :
    deliverOpen c b body s = answerOwn c b (kindCode .channelOpen) .notReady s := by
  unfold deliverOpen
  rw [h]
  exact if_neg hd

/-- A CHANNEL OPEN that passes is reported, opens its CLOSED, drained channel and is answered DONE (R40, R77). -/
theorem deliverOpen_admitted {m : ReqMsg} (h : (chanAt c s).state = .closed) (hd : isDrained (chanAt c s) = true)
    (hp : Spells m .channelOpen) (hf : s.monitor.freeze = none ∨ chanPort c = .svp)
    (hg : ∃ i, (grantAt i s).state = .active ∧ (grantAt i s).requester = chanPort c) :
    deliverOpen c b (rowBody .channelOpen m) s = offerReply (requestReply c b .channelOpen .done false []) true
      (setChan c openedChannel (admittedReported c s)) := by
  unfold deliverOpen
  rw [h]
  dsimp only
  rw [if_pos hd, check_channelOpen hp hf hg]
  dsimp only
  rw [noteAdmission_channelOpen]
  rfl

theorem deliverOpen_wrongState
    (h : (chanAt c s).state = .idle ∨ (chanAt c s).state = .busy ∨ (chanAt c s).state = .streaming) :
    deliverOpen c b body s = answerOwn c b (kindCode .channelOpen) .wrongState s := by
  unfold deliverOpen
  rcases h with h | h | h
  · rw [h]
  · rw [h]
  · rw [h]

theorem deliverOpen_halted (h : (chanAt c s).state = .halted) :
    deliverOpen c b body s = answerOwn c b (kindCode .channelOpen) .channelHalted s := by
  unfold deliverOpen
  rw [h]

end Open

/-- Settles O28, by the channel's state. -/
theorem channelOpenOpens : Obligations.ChannelOpenOpens := by
  intro m s u ht room answered ch
  have own : ∀ {st}, deliverOpen m.chan m.buf (rowBody .channelOpen m) u =
      answerOwn m.chan m.buf (kindCode .channelOpen) st u → exec (.channelOpen m) s = .next (answered st u) := fun h =>
    (exec_channelOpen ht).trans (congrArg _ (h.trans (answerOwn_room room ..)))
  refine ⟨fun hc ha hb hp hf hg => ?_, fun hc hd => own (deliverOpen_notReady hc fun drained => ?_),
    fun h => own (deliverOpen_wrongState h), fun h => own (deliverOpen_halted h)⟩
  · have opened : HasRoom (chanPort m.chan) (setChan m.chan openedChannel (admittedReported m.chan u)) :=
      hasRoom_congr room (report_replies ..)
    rw [exec_channelOpen ht, deliverOpen_admitted hc ((isDrained_iff _).mpr ⟨ha, hb⟩) hp hf hg]
    exact congrArg _ (offerReply_room opened)
  · obtain ⟨ha, hb⟩ := (isDrained_iff _).mp drained
    exact hd.elim (· ha) (· hb)

section Close
variable {c : ChanId} {b : Buf} {body : List Byte} {s : State}

theorem deliverClose_closed (h : (chanAt c s).state = .closed) :
    deliverClose c b body s = answerOwn c b (kindCode .channelClose) .channelClosed s := by
  unfold deliverClose
  rw [h]

/-- A CHANNEL CLOSE is reported, closes its open or HALTED channel and is then answered DONE (R40, R78). -/
theorem deliverClose_admitted {m : ReqMsg} (h : (chanAt c s).state ≠ .closed) (hp : Spells m .channelClose) :
    deliverClose c b (rowBody .channelClose m) s = offerReply (requestReply c b .channelClose .done false []) true
      (closeChannel c (admittedReported c s)) := by
  unfold deliverClose
  rw [check_channelClose hp]
  dsimp only
  rw [noteAdmission_channelClose]
  cases e : (chanAt c s).state with
  | closed => exact absurd e h
  | idle | busy | streaming | halted => rfl

end Close

/-! ### What a close ends (R63, R98, R112) -/

section Ends
variable (c : ChanId) (s : State)

/-- R112: no map job of the channel is left once its jobs are withdrawn. -/
theorem withdrawJobsOf_over : JobsOver (fun j => j.chan = c) (withdrawJobsOf c s) := by
  intro j hj hc
  unfold withdrawJobsOf at hj
  rw [jobsOf_endJobs, List.mem_filter, hc, beq_self_eq_true] at hj
  obtain ⟨-, kept⟩ := hj
  cases kept

theorem jobChan_of_same (c : ChanId) (i j : Job) (h : SameJob j i) (hj : j.chan = c) : i.chan = c := by
  obtain ⟨-, chan, -⟩ := h
  exact chan ▸ hj

/-- R98: withdrawing the jobs, too, leaves the channel's streams CONCLUDED. -/
theorem withdrawStreamsAndJobs_over (k : CtxId) : ChanStreamsOver c k (withdrawJobsOf c (withdrawStreamsOf c s)) :=
  chanStreamsOver_winds (winds_endJobs (Winds.refl _) _ _) (withdrawStreamsOf_over c k s)

/-- R98: a closed channel's streams are CONCLUDED. -/
theorem closeChannel_streamsOver (k : CtxId) : ChanStreamsOver c k (closeChannel c s) :=
  chanStreamsOver_winds (winds_leaveClaimsOf (Winds.refl _) c) (withdrawStreamsAndJobs_over c _ k)

/-- R112: no map job of a closed channel is left. -/
theorem closeChannel_jobsOver : JobsOver (fun j => j.chan = c) (closeChannel c s) :=
  jobsOver_winds (jobChan_of_same c) (winds_leaveClaimsOf (Winds.refl _) c) (withdrawJobsOf_over c _)

/-- R63, R78: every claim a closed channel held has been left. -/
theorem closeChannel_claimsOver (w : UnitId) : ClaimOver w (fun cl => cl.holder = some c) (closeChannel c s) :=
  leaveClaimsOf_over c w _

end Ends

/-- Settles O29: the admitted close by what `closeChannel` ends, a CLOSED channel by the engine's own answer. -/
theorem channelCloseCloses : Obligations.ChannelCloseCloses := by
  intro m s u ht
  refine ⟨fun hc hp => ?_, fun hc room => ?_⟩
  · have reported : Winds u (admittedReported m.chan u) := winds_report (Winds.refl u) _
    obtain ⟨state, staged, cause, clear⟩ := closed_closeChannel m.chan (admittedReported m.chan u)
    exact ⟨_, (exec_channelClose ht).trans (congrArg _ (deliverClose_admitted hc hp)), winds_closeChannel reported m.chan,
      state, staged, cause, clear, closeChannel_streamsOver m.chan _, closeChannel_jobsOver m.chan _,
      closeChannel_claimsOver m.chan _⟩
  · rw [exec_channelClose ht, deliverClose_closed hc, answerOwn_room room]

end Sys2Proof.Machine
end

section
/-! CHANNEL HALT and CHANNEL CLEAR by the channel's state (R82, R84, R85). -/

namespace Sys2Proof.Machine

/-! ### The channel a command names (R84) -/

section Named
variable {port index : Byte}

theorem channelOf_named {c : ChanId} (hp : 1 ≤ port.toNat) (hi : index.toNat < 4)
    (hc : c.val = 4 * (port.toNat - 1) + index.toNat) : channelOf port index = some c := by
  have index_named : index4 index = some ⟨index.toNat, hi⟩ := index4_eq index _ rfl
  unfold channelOf
  rw [index_named]
  rcases (by omega : port.toNat = 1 ∨ port.toNat = 2 ∨ port.toNat = 3) with h | h | h
  · obtain rfl : port = 1 := BitVec.eq_of_toNat_eq h
    exact congrArg some (Fin.ext (show index.toNat = c.val by omega))
  · obtain rfl : port = 2 := BitVec.eq_of_toNat_eq h
    exact congrArg some (Fin.ext (show 4 + index.toNat = c.val by omega))
  · obtain rfl : port = 3 := BitVec.eq_of_toNat_eq h
    exact congrArg some (Fin.ext (show 8 + index.toNat = c.val by omega))

theorem channelOf_unnamed (h : port = 0 ∨ 4 ≤ port.toNat ∨ 4 ≤ index.toNat) : channelOf port index = none := by
  unfold channelOf
  rcases h with rfl | h | h
  · rw [portOf_none 0 (by decide)]
  · rw [portOf_none port (by omega)]
  · rw [index4_none index h]
    cases portOf port <;> rfl

end Named

/-! ### Halting (R82) -/

/-- R71, R82: a staged request is dropped and its buffer freed. -/
theorem dropStaged_eq (ch : Channel) : dropStaged ch = { ch with
    staged := none
    bufX := if ch.staged = some .x then none else ch.bufX
    bufY := if ch.staged = some .y then none else ch.bufY } := by
  obtain ⟨state, expect, bufX, bufY, active, staged, binding, haltCause, clearPending⟩ := ch
  cases staged with
  | none => rfl
  | some b => cases b <;> rfl

/-- R82: only a working channel becomes HALTED. -/
theorem haltEntry_working {c : ChanId} {s : State} (hc : (chanAt c s).state ≠ .closed)
    (hh : (chanAt c s).state ≠ .halted) (cause : HaltCause) : haltEntry c cause s =
      setChan c { dropStaged (chanAt c s) with state := .halted, haltCause := some cause, clearPending := false } s :=
  if_pos ((isWorking_iff _).mpr ⟨hc, hh⟩)

/-! ### A HALTED channel stays HALTED through the ends of work (R75, R82) -/

section Halted
variable {c d : ChanId} {s : State}

theorem halted_setChan (h : (chanAt c s).state = .halted) {x : Channel}
    (hx : (chanAt d s).state = .halted → x.state = .halted) : (chanAt c (setChan d x s)).state = .halted := by
  by_cases e : d = c
  · subst e
    rw [chanAt_setChan]
    exact hx h
  · rw [chanAt_setChan_ne _ _ _ _ e]
    exact h

theorem halted_haltEntry (h : (chanAt c s).state = .halted) (cause : HaltCause) :
    (chanAt c (haltEntry d cause s)).state = .halted := by
  unfold haltEntry
  dsimp only
  split
  · exact halted_setChan h fun _ => rfl
  · exact h

theorem halted_offerReply (h : (chanAt c s).state = .halted) (r : Reply) (admitted : Bool) :
    (chanAt c (offerReply r admitted s)).state = .halted := by
  have reported : (chanAt c (report ⟨.replyDropped, some (chanPort r.chan), none, none⟩ s)).state = .halted := by
    rw [report_chanAt]
    exact h
  unfold offerReply
  dsimp only
  split
  · exact h
  · split
    · exact halted_haltEntry reported _
    · exact reported

theorem clearActive_halted {b : Buf} {ch : Channel} (h : ch.state = .halted) : (clearActive b ch).state = .halted := by
  rw [clearActive_eq]
  exact (if_pos (.inr h)).trans h

theorem halted_completeActive (h : (chanAt c s).state = .halted) (st : Status) (payload : List Byte) :
    (chanAt c (completeActive d st payload s)).state = .halted := by
  unfold completeActive
  split
  · exact h
  · dsimp only
    split
    · exact halted_setChan (halted_offerReply h _ _) clearActive_halted
    · exact halted_setChan h clearActive_halted

theorem halted_answerEnding (h : (chanAt c s).state = .halted) (k : CtxId) :
    (chanAt c (answerEnding k s)).state = .halted := by
  unfold answerEnding
  split
  · exact h
  · split
    · exact h
    · exact halted_completeActive (by rw [chanAt_setStream]; exact h) _ _

theorem halted_withdrawStream (h : (chanAt c s).state = .halted) (k : CtxId) :
    (chanAt c (withdrawStream k s)).state = .halted := by
  unfold withdrawStream
  split
  · exact h
  · exact halted_answerEnding (by rw [chanAt_setStream]; exact h) k

theorem halted_foldl {α : Type} (f : State → α → State)
    (hf : ∀ v a, (chanAt c v).state = .halted → (chanAt c (f v a)).state = .halted) (l : List α)
    (h : (chanAt c s).state = .halted) : (chanAt c (l.foldl f s)).state = .halted := by
  induction l generalizing s with
  | nil => exact h
  | cons a l ih => exact ih (hf s a h)

theorem halted_withdrawStreamsOf (h : (chanAt c s).state = .halted) :
    (chanAt c (withdrawStreamsOf d s)).state = .halted := by
  refine halted_foldl _ (fun v k hv => ?_) _ h
  split
  · split
    · exact halted_withdrawStream hv k
    · exact hv
  · exact hv

theorem halted_withdrawJobsOf (h : (chanAt c s).state = .halted) :
    (chanAt c (withdrawJobsOf d s)).state = .halted := by
  unfold withdrawJobsOf endJobs
  dsimp only
  rw [chanAt_setMap]
  exact halted_foldl _ (fun _ _ hv => halted_completeActive hv _ _) _ h

end Halted

/-! ### Clearing (R85) -/

section Clear
variable (c : ChanId) (s : State)

theorem units_withdrawStream (k : CtxId) : (withdrawStream k s).units = s.units := by
  unfold withdrawStream
  split
  · rfl
  · exact units_answerEnding ..

theorem units_withdrawStreamsOf : (withdrawStreamsOf c s).units = s.units := by
  refine units_foldl _ (fun v k => ?_) _ _
  split
  · split
    · exact units_withdrawStream ..
    · rfl
  · rfl

/-- R85 step 3 writes the channel's own record only. -/
theorem drainChannel_frame (x : Channel) : ∃ y, drainChannel c (setChan c x s) = setChan c y s := by
  unfold drainChannel
  split
  · exact ⟨_, setChan_setChan ..⟩
  · exact ⟨x, rfl⟩

/-- R85: a clear withdraws the channel's streams and jobs, and then writes the channel's own record only. -/
theorem clearChannel_frame : ∃ x, clearChannel c s = setChan c x (withdrawJobsOf c (withdrawStreamsOf c s)) :=
  drainChannel_frame c _ _

/-- R63, R85: a clear ends no claim. -/
theorem units_clearChannel : (clearChannel c s).units = s.units := by
  obtain ⟨x, frame⟩ := clearChannel_frame c s
  rw [frame, setChan_units]
  exact (units_endJobs ..).trans (units_withdrawStreamsOf c s)

/-- R98: the cleared channel's streams are CONCLUDED. -/
theorem clearChannel_streamsOver (k : CtxId) : ChanStreamsOver c k (clearChannel c s) := by
  obtain ⟨x, frame⟩ := clearChannel_frame c s
  intro y hy
  rw [frame, streamAt_setChan] at hy
  exact withdrawStreamsAndJobs_over c s k y hy

/-- R112: no map job of the cleared channel is left. -/
theorem clearChannel_jobsOver : JobsOver (fun j => j.chan = c) (clearChannel c s) := by
  obtain ⟨x, frame⟩ := clearChannel_frame c s
  intro j hj
  rw [frame, setChan_map] at hj
  exact withdrawJobsOf_over c _ j hj

end Clear

/-- R85 step 3: a HALTED channel with clear pending is cleared if it has drained, and else stays as it is. -/
theorem chanAt_drainChannel (c : ChanId) (s : State) {x : Channel} (hs : x.state = .halted) (hp : x.clearPending = true) :
    chanAt c (drainChannel c (setChan c x s)) =
      if x.active = none ∧ x.binding = none then clearedChannel x else x := by
  unfold drainChannel
  rw [chanAt_setChan]
  split
  · rename_i due
    obtain ⟨-, -, drained⟩ := (drainDue_iff x).mp due
    rw [chanAt_setChan, if_pos drained]
  · rename_i due
    rw [chanAt_setChan, if_neg fun drained => due ((drainDue_iff x).mpr ⟨hs, hp, drained⟩)]

/-- R85: the record of a HALTED channel once a clear has ended its streams and jobs, by whether it has then drained. -/
theorem chanAt_clearChannel {c : ChanId} {s : State} (h : (chanAt c s).state = .halted) : ∃ x : Channel,
    x.state = .halted ∧ x.clearPending = true ∧
      chanAt c (clearChannel c s) = if x.active = none ∧ x.binding = none then clearedChannel x else x := by
  have halted : (chanAt c (withdrawJobsOf c (withdrawStreamsOf c s))).state = .halted :=
    halted_withdrawJobsOf (halted_withdrawStreamsOf h)
  unfold clearChannel
  generalize withdrawJobsOf c (withdrawStreamsOf c s) = t at halted ⊢
  exact ⟨{ chanAt c t with clearPending := true }, halted, rfl, chanAt_drainChannel c t halted rfl⟩

/-! ### The commands -/

section Commands
variable {env : Envelope} {port index : Byte} {c : ChanId} {s : State}

theorem channelHalt_unnamed (h : channelOf port index = none) :
    channelHalt env port index s = answerCommand env cmdChannelHalt .badArgument [] s := by
  unfold channelHalt
  rw [h]

theorem channelHalt_closed (h : channelOf port index = some c) (hc : (chanAt c s).state = .closed) :
    channelHalt env port index s = answerCommand env cmdChannelHalt .wrongState [] s := by
  unfold channelHalt
  rw [h]
  dsimp only
  rw [hc]

theorem channelHalt_halted (h : channelOf port index = some c) (hc : (chanAt c s).state = .halted) :
    channelHalt env port index s =
      answerCommand env cmdChannelHalt .done [] (setChan c { chanAt c s with clearPending := false } s) := by
  unfold channelHalt
  rw [h]
  dsimp only
  rw [hc]

theorem channelHalt_working (h : channelOf port index = some c) (hc : (chanAt c s).state ≠ .closed)
    (hh : (chanAt c s).state ≠ .halted) :
    channelHalt env port index s = answerCommand env cmdChannelHalt .done [] (haltEntry c .command s) := by
  unfold channelHalt
  rw [h]
  dsimp only
  split
  · exact absurd ‹_› hc
  · exact absurd ‹_› hh
  · rfl

theorem channelClear_unnamed (h : channelOf port index = none) :
    channelClear env port index s = answerCommand env cmdChannelClear .badArgument [] s := by
  unfold channelClear
  rw [h]

theorem channelClear_named (h : channelOf port index = some c) : channelClear env port index s =
    if (chanAt c s).state = .halted then
      answerCommand env cmdChannelClear .done [] (if (chanAt c s).clearPending then s else clearChannel c s)
    else answerCommand env cmdChannelClear .wrongState [] s := by
  unfold channelClear
  rw [h]

end Commands

/-- Settles O57, by the channel's state; a clear by what `clearChannel` ends and leaves. -/
theorem channelsAreHaltedAndCleared : Obligations.ChannelsAreHaltedAndCleared := by
  intro env port index s u ht halted cleared
  have halts : ∀ {t}, channelHalt env port index u = t → exec (.channelHalt env port index) s = .next t := fun h =>
    (running_at ht).trans (congrArg _ h)
  have clears : ∀ {t}, channelClear env port index u = t → exec (.channelClear env port index) s = .next t := fun h =>
    (running_at ht).trans (congrArg _ h)
  refine ⟨fun bad => ⟨halts (channelHalt_unnamed (channelOf_unnamed bad)),
    clears (channelClear_unnamed (channelOf_unnamed bad))⟩, fun c hp hi hc => ?_⟩
  intro ch
  have named : channelOf port index = some c := channelOf_named hp hi hc
  refine ⟨fun h => halts (channelHalt_closed named h), fun h => halts (channelHalt_halted named h),
    fun hopen hworks => halts ((channelHalt_working named hopen hworks).trans ?_),
    fun h => clears ((channelClear_named named).trans (if_neg h)),
    fun h again => clears ((channelClear_named named).trans ((if_pos h).trans ?_)),
    fun h first => ⟨clearChannel c u, clears ((channelClear_named named).trans ((if_pos h).trans ?_)),
      clearChannel_streamsOver c u, clearChannel_jobsOver c u,
      fun v => congrArg UnitRec.claim (unitAt_congr (units_clearChannel c u)), ?_⟩⟩
  · rw [haltEntry_working hopen hworks, dropStaged_eq]
    rfl
  · rw [if_pos again]
    rfl
  · rw [if_neg (by rw [first]; exact Bool.false_ne_true)]
    rfl
  · obtain ⟨left, state, pending, record⟩ := chanAt_clearChannel h
    rw [record]
    by_cases drained : left.active = none ∧ left.binding = none
    · rw [if_pos drained]
      obtain ⟨active, binding⟩ := drained
      exact ⟨fun _ => ⟨active, binding, rfl, rfl, rfl, rfl, rfl⟩, fun hn => absurd rfl hn⟩
    · rw [if_neg drained]
      exact ⟨fun idle => (by rw [state] at idle; cases idle), fun _ => ⟨state, pending, not_and_or.mp drained⟩⟩

end Sys2Proof.Machine
end

section
/-! R86's counts, kept by every step. -/

namespace Sys2Proof.Machine

/-- R86, R99: that the counts of the bound contexts stand in order is a law of the tables; at power-on none is bound. -/
theorem tableLaw_streamsCounted : TableLaw StreamsCounted where
  kept h := h.streams
  powerOn raw k x hx := by
    have free : streamAt k (State.powerOn raw) = none := Vector.get_replicate ..
    rw [free] at hx
    cases hx
  lines _ _ _ _ _ hs := hs

/-- Settles O10: it is a law of the tables. -/
theorem everyStepKeepsStreamCounts : Obligations.EveryStepKeepsStreamCounts :=
  fun _ _ hs h => tableLaw_streamsCounted.step_keeps hs h

end Sys2Proof.Machine
end

section
/-! The stream engine's operations, case by case: the swap of the slots (R89), a BLOCK (R88, R90), STREAM END and STREAM ABORT
(R93, R94), and the end of a block in slot A (R91, R92). -/

namespace Sys2Proof.Machine

variable {k : CtxId} {x : Stream} {s : State}

/-! ### A context written among other writes -/

theorem setStream_setStream (k : CtxId) (y z : Option Stream) (s : State) :
    setStream k y (setStream k z s) = setStream k y s := by
  simp [setStream]

theorem enterQueue_setStream (v : UnitId) (e : Entry) (k : CtxId) (y : Option Stream) (s : State) :
    enterQueue v e (setStream k y s) = setStream k y (enterQueue v e s) := by
  unfold enterQueue
  simp only [unitAt_setStream]
  cases (unitAt v s).defn <;> rfl

theorem placeEntry_setStream (v : UnitId) (e : Entry) (k : CtxId) (y : Option Stream) (s : State) :
    placeEntry v e (setStream k y s) = setStream k y (placeEntry v e s) := by
  have record : unitAt v (setStream k y s) = unitAt v s := rfl
  unfold placeEntry
  dsimp only
  rw [record]
  split
  · exact enterQueue_setStream v e k y (setUnit v { unitAt v s with out := some e } s)
  · rfl

theorem restartClaimTimer_setStream (v : UnitId) (k : CtxId) (y : Option Stream) (s : State) :
    restartClaimTimer v (setStream k y s) = setStream k y (restartClaimTimer v s) := by
  have record : unitAt v (setStream k y s) = unitAt v s := rfl
  unfold restartClaimTimer
  dsimp only
  rw [record]
  split
  · rfl
  · rfl

theorem restartClaimTimer_setChan (v : UnitId) (c : ChanId) (ch : Channel) (s : State) :
    restartClaimTimer v (setChan c ch s) = setChan c ch (restartClaimTimer v s) := by
  have record : unitAt v (setChan c ch s) = unitAt v s := rfl
  unfold restartClaimTimer
  dsimp only
  rw [record]
  split
  · rfl
  · rfl

/-! ### The swap of the slots (R89) -/

/-- R89: slot A is free, and slot B is full, ends the image, or drains. -/
theorem swapDue_iff : swapDue x = true ↔ x.slotA = none ∧
    (x.slotB.length = x.size ∨ x.slotB ≠ [] ∧ (x.accepted = x.total ∨ x.state = .draining)) := by
  unfold swapDue
  simp only [Bool.and_eq_true, Bool.or_eq_true, beq_iff_eq, Bool.not_eq_true', List.isEmpty_eq_false_iff,
    Option.isNone_iff_eq_none]
  rw [or_assoc, ← or_and_right, and_comm (a := _ ∨ _)]

/-- The MEMORY STORE with the program mark by which slot B is issued (R89, R121). -/
theorem blockEntry_eq {u : State} (hu : s.units = u.units) (k : CtxId) (x : Stream) : blockEntry k x s =
    { source := .stream k x.chan,
      msg := .memoryStore (windowByte x.unit x.window (x.start + x.issued) u) x.slotB true,
      grant := some x.grant, window := some x.window, keep := 0 } := by
  have addr : streamAddr x x.issued s = windowByte x.unit x.window (x.start + x.issued) u := by
    rw [← windowByte_congr hu]
    unfold streamAddr windowByte
    cases windowAt x.unit x.window s with
    | none => rfl
    | some w => exact Nat.add_assoc ..
  unfold blockEntry
  rw [addr]

/-- The block in slot B of `x` is issued and stands in slot A; slot B then holds `rest`. -/
def issueBlock (k : CtxId) (x : Stream) (rest : List Byte) (s : State) : State :=
  restartClaimTimer x.unit (placeEntry x.unit (blockEntry k x s) (setStream k (some { x with
    slotA := some ⟨x.issued, x.slotB⟩, issued := x.issued + x.slotB.length, slotB := rest }) s))

/-- `issueBlock` with its entry written out for a state with the same units. -/
theorem issueBlock_eq {u : State} (hu : s.units = u.units) (k : CtxId) (x : Stream) (rest : List Byte) :
    issueBlock k x rest s = restartClaimTimer x.unit (placeEntry x.unit
      { source := .stream k x.chan,
        msg := .memoryStore (windowByte x.unit x.window (x.start + x.issued) u) x.slotB true,
        grant := some x.grant, window := some x.window, keep := 0 }
      (setStream k (some { x with
        slotA := some ⟨x.issued, x.slotB⟩, issued := x.issued + x.slotB.length, slotB := rest }) s)) := by
  unfold issueBlock
  rw [blockEntry_eq hu]

theorem streamAt_issueBlock (k : CtxId) (x : Stream) (rest : List Byte) (s : State) :
    streamAt k (issueBlock k x rest s) = some { x with
      slotA := some ⟨x.issued, x.slotB⟩, issued := x.issued + x.slotB.length, slotB := rest } := by
  unfold issueBlock
  rw [restartClaimTimer_streamAt, placeEntry_streamAt, streamAt_setStream]

theorem issueBlock_replies (k : CtxId) (x : Stream) (rest : List Byte) (s : State) :
    (issueBlock k x rest s).replies = s.replies := by
  unfold issueBlock
  rw [restartClaimTimer_replies, placeEntry_replies]
  rfl

/-- What is written into slot B behind an issued block. -/
theorem setStream_issueBlock (k : CtxId) (x : Stream) (first rest : List Byte) (s : State) :
    setStream k (some { x with slotA := some ⟨x.issued, x.slotB⟩, issued := x.issued + x.slotB.length, slotB := rest })
      (issueBlock k x first s) = issueBlock k x rest s := by
  unfold issueBlock
  rw [← restartClaimTimer_setStream, ← placeEntry_setStream, setStream_setStream]

theorem swapSlots_due (hx : streamAt k s = some x) (h : swapDue x = true) : swapSlots k s = issueBlock k x [] s := by
  unfold swapSlots
  rw [hx]
  exact if_pos h

theorem swapSlots_idle (hx : streamAt k s = some x) (h : ¬ swapDue x = true) : swapSlots k s = s := by
  unfold swapSlots
  rw [hx]
  exact if_neg h

theorem issueBlock_setStream (k : CtxId) (x : Stream) (rest : List Byte) (y : Option Stream) (s : State) :
    issueBlock k x rest (setStream k y s) = issueBlock k x rest s := by
  unfold issueBlock
  rw [setStream_setStream]
  rfl

/-- A context just written swaps where it is due. -/
theorem swapSlots_written_due (h : swapDue x = true) (k : CtxId) (s : State) :
    swapSlots k (setStream k (some x) s) = issueBlock k x [] s :=
  (swapSlots_due (streamAt_setStream ..) h).trans (issueBlock_setStream ..)

theorem swapSlots_written_idle (h : ¬ swapDue x = true) (k : CtxId) (s : State) :
    swapSlots k (setStream k (some x) s) = setStream k (some x) s :=
  swapSlots_idle (streamAt_setStream ..) h

/-! ### Answers of a pending end (R91 to R93) -/

theorem endingStatus_concluded {how : Concluded} (hc : x.concluded = some how) : endingStatus x = concludedStatus how := by
  unfold endingStatus
  rw [hc]

/-- The pending end is answered with the stream's ending status, and the context is to be released. -/
theorem answerEnding_pending {e : StreamEnding} (hx : streamAt k s = some x) (h : x.endPending = some e) :
    answerEnding k s = completeActive x.chan (endingStatus x) (endingPayload x e)
      (setStream k (some { x with release := true, endPending := none }) s) := by
  unfold answerEnding
  rw [hx]
  dsimp only
  rw [h]

theorem answerEnding_written_none (h : x.endPending = none) (k : CtxId) (s : State) :
    answerEnding k (setStream k (some x) s) = setStream k (some x) s :=
  answerEnding_none (streamAt_setStream ..) h

theorem answerEnding_written_pending {e : StreamEnding} (h : x.endPending = some e) (k : CtxId) (s : State) :
    answerEnding k (setStream k (some x) s) = completeActive x.chan (endingStatus x) (endingPayload x e)
      (setStream k (some { x with release := true, endPending := none }) s) := by
  rw [answerEnding_pending (streamAt_setStream ..) h, setStream_setStream]

/-- R96: a stream with a free slot A is concluded, and its pending end, if there is one, answered. -/
theorem concludeStream_free (hx : streamAt k s = some x) (hs : x.state ≠ .concluded) (ha : x.slotA = none)
    (how : Concluded) : concludeStream k how s = answerEnding k (setStream k (some { x with
      state := .concluded, concluded := some how, slotB := [], idle := none }) s) := by
  unfold concludeStream
  rw [hx]
  dsimp only
  rw [if_neg hs, ha]
  rfl

/-! ### The block in slot A ends (R91, R92) -/

section Done
variable {a : SlotA} {r : Result}

/-- The block's bytes are confirmed and slot A is free. -/
def confirmBlock (a : SlotA) (x : Stream) : Stream :=
  { x with slotA := none, confirmed := x.confirmed + a.bytes.length }

/-- A POSITIVE block of a CONCLUDED context is confirmed, and an end that pends is answered. -/
theorem blockDone_positive_concluded (hx : streamAt k s = some x) (ha : x.slotA = some a) (hs : x.state = .concluded)
    (data : List Byte) :
    blockDone k (.positive data) s = answerEnding k (setStream k (some (confirmBlock a x)) s) := by
  unfold blockDone confirmBlock
  rw [hx]
  dsimp only
  rw [ha]
  dsimp only
  rw [hs]

/-- A POSITIVE block of a context at work is confirmed, slot B may follow it, and a drained stream answers its end. -/
theorem blockDone_positive_working (hx : streamAt k s = some x) (ha : x.slotA = some a) (hs : x.state ≠ .concluded)
    (data : List Byte) {t : State} (ht : swapSlots k (setStream k (some (confirmBlock a x)) s) = t) {y : Stream}
    (hy : streamAt k t = some y) : blockDone k (.positive data) s =
      if y.state = .draining ∧ y.slotA = none ∧ y.slotB = [] then answerEnding k t else t := by
  have drained : (decide (y.state = .draining) && y.slotA.isNone && y.slotB.isEmpty) = true ↔
      y.state = .draining ∧ y.slotA = none ∧ y.slotB = [] := by
    simp only [Bool.and_eq_true, decide_eq_true_eq, Option.isNone_iff_eq_none, List.isEmpty_iff, and_assoc]
  unfold confirmBlock at ht
  unfold blockDone
  rw [hx]
  dsimp only
  rw [ha]
  dsimp only
  rw [ht, hy]
  cases hw : x.state with
  | concluded => exact absurd hw hs
  | filling | draining => exact if_congr drained rfl rfl

/-- A block that fails frees slot A of a CONCLUDED context, and an end that pends is answered. -/
theorem blockDone_fails_concluded (hx : streamAt k s = some x) (ha : x.slotA = some a) (hs : x.state = .concluded)
    (hr : ∀ data, r ≠ .positive data) :
    blockDone k r s = answerEnding k (setStream k (some { x with slotA := none }) s) := by
  unfold blockDone
  rw [hx]
  dsimp only
  rw [ha]
  dsimp only
  rw [hs]
  cases r with
  | positive data => exact absurd rfl (hr data)
  | negative | timeout | ended => rfl

/-- A block that fails concludes a stream at work, and an end that pends is answered (R91). -/
theorem blockDone_fails_working (hx : streamAt k s = some x) (ha : x.slotA = some a) (hs : x.state ≠ .concluded)
    (hr : ∀ data, r ≠ .positive data) : blockDone k r s = answerEnding k (setStream k (some { x with
      slotA := none, state := .concluded, concluded := some (failureConcludes r), slotB := [], idle := none }) s) := by
  have concluded := concludeStream_free (k := k) (s := setStream k (some { x with slotA := none }) s)
    (streamAt_setStream ..) hs rfl (failureConcludes r)
  rw [setStream_setStream] at concluded
  refine Eq.trans ?_ concluded
  unfold blockDone
  rw [hx]
  dsimp only
  rw [ha]
  dsimp only
  cases hw : x.state with
  | concluded => exact absurd hw hs
  | filling | draining =>
    cases r with
    | positive data => exact absurd rfl (hr data)
    | negative | timeout | ended => rfl

/-- Withdrawals of the block abort its stream, every other end of it fails the stream (R91). -/
theorem failureConcludes_ended (st : Status) : failureConcludes (.ended st) =
    if st = .interlock ∨ st = .notClaimed then .aborted else .failed := by
  cases st <;> rfl

end Done

end Sys2Proof.Machine
end

section
/-! The completion of a stream's block and of a map job's row (R91, R92, R106 to R109, R111). -/

namespace Sys2Proof.Machine

/-! ### The map engine's places among other writes -/

theorem setMap_setMap (m n : MapEngine) (s : State) : setMap m (setMap n s) = setMap m s := rfl

theorem freezeTrigger_setMap (cause : FreezeCause) (m : MapEngine) (s : State) :
    freezeTrigger cause (setMap m s) = setMap m (freezeTrigger cause s) := by
  unfold freezeTrigger
  dsimp only [setMap_monitor]
  cases s.monitor.freeze <;> rfl

theorem addCounts_setMap (amounts : Fin 8 → Nat) (m : MapEngine) (s : State) :
    addCounts amounts (setMap m s) = setMap m (addCounts amounts s) := by
  unfold addCounts
  dsimp only [setMap_monitor]
  split
  · exact freezeTrigger_setMap _ m { s with monitor := _ }
  · rfl

theorem report_setMap (r : Report) (m : MapEngine) (s : State) : report r (setMap m s) = setMap m (report r s) := by
  by_cases h : countingStopped s.monitor = true
  · exact (if_pos h).trans (congrArg (setMap m) (if_pos h).symm)
  · exact (if_neg h).trans ((addCounts_setMap ..).trans (congrArg (setMap m) (if_neg h).symm))

theorem haltEntry_setMap (c : ChanId) (cause : HaltCause) (m : MapEngine) (s : State) :
    haltEntry c cause (setMap m s) = setMap m (haltEntry c cause s) := by
  unfold haltEntry
  dsimp only [chanAt_setMap]
  split
  · rfl
  · rfl

theorem offerReply_setMap (r : Reply) (admitted : Bool) (m : MapEngine) (s : State) :
    offerReply r admitted (setMap m s) = setMap m (offerReply r admitted s) := by
  have room : replyRoom (chanPort r.chan) (setMap m s) = replyRoom (chanPort r.chan) s := rfl
  unfold offerReply
  dsimp only
  rw [room, report_setMap]
  split
  · rfl
  · split
    · exact haltEntry_setMap ..
    · rfl

/-- A channel's completion neither reads nor writes the map engine. -/
theorem completeActive_setMap (c : ChanId) (st : Status) (payload : List Byte) (m : MapEngine) (s : State) :
    completeActive c st payload (setMap m s) = setMap m (completeActive c st payload s) := by
  unfold completeActive
  rw [chanAt_setMap]
  split
  · rfl
  · dsimp only
    split
    · rw [offerReply_setMap]
      rfl
    · rfl

/-! ### A job's end and its rows (R106 to R111) -/

section Row
variable {v : UnitId} {j : Job} {r : Result} {s : State}

/-- R110: the payload of a job that does not end DONE. -/
theorem jobPayload_ended {st : Status} (h : st ≠ .done) (j : Job) (reason : List Byte) :
    jobPayload j st reason = [byte j.done, byte j.plan.length] ++ reason := by
  unfold jobPayload
  split
  · exact absurd rfl h
  · rfl

/-- R110: the active job, its row request completed, ends and the queue's head takes its place. -/
theorem endActive_written (i : Job) (st : Status) (reason : List Byte) (m : MapEngine) (s : State) :
    endActive i st reason (setMap m s) = setMap { m with active := m.queue.head?, queue := m.queue.tail }
      (completeActive i.chan st (jobPayload i st reason) s) := by
  unfold endActive answerJob
  dsimp only
  rw [completeActive_setMap]
  rfl

theorem rowDone_orphan (h : s.map.slot = some ⟨v, true⟩) (r : Result) :
    rowDone r s = setMap { s.map with slot := none } s := by
  unfold rowDone
  rw [h]

/-- A POSITIVE row joins its job, which goes on with its next row or ends DONE (R106, R107). -/
theorem rowDone_positive (hs : s.map.slot = some ⟨v, false⟩) (hj : s.map.active = some j) (data : List Byte) :
    rowDone (.positive data) s =
      if j.done + 1 = j.plan.length then
        endActive (jobAfterRow j data) .done [] (setMap { s.map with active := some (jobAfterRow j data), slot := none } s)
      else issueRow (setMap { s.map with active := some (jobAfterRow j data), slot := none } s) := by
  unfold rowDone
  rw [hs, hj]
  rfl

/-- A row that fails ends its job with the row's status (R108, R109). -/
theorem rowDone_fails (hs : s.map.slot = some ⟨v, false⟩) (hj : s.map.active = some j)
    (hr : ∀ data, r ≠ .positive data) (hst : resultStatus r ≠ .done) : rowDone r s =
      setMap { s.map with active := s.map.queue.head?, queue := s.map.queue.tail, slot := none }
        (completeActive j.chan (resultStatus r) ([byte j.done, byte j.plan.length] ++ resultPayload r) s) := by
  have ends : rowDone r s = endActive { j with issuing := false } (resultStatus r) (resultPayload r)
      (setMap { s.map with active := some { j with issuing := false }, slot := none } s) := by
    unfold rowDone
    rw [hs, hj]
    cases r with
    | positive data => exact absurd rfl (hr data)
    | negative | timeout | ended => rfl
  rw [ends, endActive_written, jobPayload_ended hst]

/-- R106, R107: the answer of a job whose last row was POSITIVE. -/
theorem jobPayload_afterRow (j : Job) (data : List Byte) : jobPayload (jobAfterRow j data) .done [] =
    match j.kind with
    | .read => [byte j.r0, byte j.c0, byte j.width, byte j.height] ++ j.assembly ++ data
    | .write => [byte j.plan.length] := by
  unfold jobPayload jobAfterRow
  dsimp only
  cases j.kind <;> rfl

end Row

/-! ### The statement, for streams and for rows -/

/-- The answer a CONCLUDED stream's pending end is given (R91 to R93). -/
theorem answerEnding_concluded {x : Stream} {e : StreamEnding} {how : Concluded} (he : x.endPending = some e)
    (hs : x.state = .concluded) (hc : x.concluded = some how) (k : CtxId) (s : State) :
    answerEnding k (setStream k (some x) s) = completeActive x.chan (concludedStatus how) (endingPayload x e)
      (setStream k (some { x with state := .concluded, concluded := some how, release := true, endPending := none }) s) := by
  rw [answerEnding_written_pending he, endingStatus_concluded hc, ← hs, ← hc]

/-- Settles O47: by the block's result and the context's state; by the row slot and the row's result. -/
theorem blocksAndRowsComplete : Obligations.BlocksAndRowsComplete := by
  have negative : ∀ reason data, Result.negative reason ≠ .positive data := fun _ _ h => by cases h
  have timeout : ∀ data, Result.timeout ≠ .positive data := fun _ h => by cases h
  have ended : ∀ st data, Result.ended st ≠ .positive data := fun _ _ h => by cases h
  refine ⟨fun k x a s hx ha => ?_, fun w r s hs => rowDone_orphan hs r, fun w j s hs hj => ?_⟩
  · intro y z
    refine ⟨fun data hf hb ht hz => ?_, fun data hw hb hd => ?_, fun data hd hb hz he hc => ?_, fun hf he => ?_,
      fun hc he => ?_, fun e he => ?_⟩
    · have still : ¬ swapDue y = true := fun due => by
        obtain ⟨-, full | ⟨some, last | drains⟩⟩ := swapDue_iff.mp due
        · exact Nat.ne_of_lt hb full
        · exact ht.elim (fun h => Nat.ne_of_lt h last) some
        · exact absurd (hf.symm.trans drains) (by decide)
      have done := blockDone_positive_working hx ha (by rw [hf]; decide) data (swapSlots_written_idle still k s)
        (streamAt_setStream ..)
      exact done.trans (if_neg fun h => absurd (hf.symm.trans h.1) (by decide))
    · have due : swapDue y = true := swapDue_iff.mpr ⟨rfl, hd.imp_right fun h => ⟨hb, h⟩⟩
      have working : x.state ≠ .concluded := by rcases hw with h | h <;> rw [h] <;> decide
      have done := blockDone_positive_working hx ha working data (swapSlots_written_due due k s) (streamAt_issueBlock ..)
      exact done.trans ((if_neg fun h => Option.some_ne_none _ h.2.1).trans (issueBlock_eq rfl ..))
    · have still : ¬ swapDue y = true := fun due => by
        obtain ⟨-, full | ⟨some, -⟩⟩ := swapDue_iff.mp due
        · exact hz (full.symm.trans (congrArg List.length hb))
        · exact some hb
      have done := blockDone_positive_working hx ha (by rw [hd]; decide) data (swapSlots_written_idle still k s)
        (streamAt_setStream ..)
      refine done.trans ((if_pos ⟨hd, rfl, hb⟩).trans ((answerEnding_written_pending (by exact he) ..).trans ?_))
      have status : endingStatus y = if x.confirmed + a.bytes.length = x.total then .done else .short := by
        rw [endingStatus_eq, show y.concluded = none from hc]
      exact congrArg (completeActive x.chan · _ _) status
    · intro concluded
      have fails : ∀ {r : Result}, (∀ data, r ≠ .positive data) → blockDone k r s = concluded (failureConcludes r) :=
        fun hr => (blockDone_fails_working hx ha (by rw [hf]; decide) hr).trans (answerEnding_written_none (by exact he) ..)
      refine ⟨fun reason => fails (negative reason), fails timeout, fun st => (fails (ended st)).trans ?_⟩
      rw [failureConcludes_ended, apply_ite concluded]
    · have fails : ∀ {r : Result}, (∀ data, r ≠ .positive data) → blockDone k r s = setStream k (some z) s :=
        fun hr => (blockDone_fails_concluded hx ha hc hr).trans (answerEnding_written_none (by exact he) ..)
      exact ⟨fun data => (blockDone_positive_concluded hx ha hc data).trans (answerEnding_written_none (by exact he) ..),
        fun reason => fails (negative reason), fails timeout, fun st => fails (ended st)⟩
    · intro answered
      have answered_eq : ∀ how w, answered how w = completeActive x.chan (concludedStatus how) (endingPayload w e)
          (setStream k (some { w with
            state := .concluded, concluded := some how, release := true, endPending := none }) s) := fun how w => by
        cases how <;> cases e <;> rfl
      have answers : ∀ {how w}, w.chan = x.chan → w.endPending = some e → w.state = .concluded → w.concluded = some how →
          answerEnding k (setStream k (some w) s) = answered how w := fun hw he hs hc =>
        (answerEnding_concluded he hs hc k s).trans (by rw [answered_eq, hw])
      refine ⟨fun hd => ?_, fun how hc hh => ?_⟩
      · intro failed
        have fails : ∀ {r : Result}, (∀ data, r ≠ .positive data) → blockDone k r s = failed (failureConcludes r) :=
          fun hr => (blockDone_fails_working hx ha (by rw [hd]; decide) hr).trans (answers rfl he rfl rfl)
        refine ⟨fun reason => fails (negative reason), fails timeout, fun st => (fails (ended st)).trans ?_⟩
        rw [failureConcludes_ended, apply_ite failed]
      · have fails : ∀ {r : Result}, (∀ data, r ≠ .positive data) → blockDone k r s = answered how z :=
          fun hr => (blockDone_fails_concluded hx ha hc hr).trans (answers rfl he hc hh)
        exact ⟨fun data => (blockDone_positive_concluded hx ha hc data).trans (answers rfl he hc hh),
          fun reason => fails (negative reason), fails timeout, fun st => fails (ended st)⟩
  · intro next
    have unitNegative : Status.unitNegative ≠ .done := by decide
    have timedOut : Status.timeout ≠ .done := by decide
    refine ⟨fun data => ⟨fun more => (rowDone_positive hs hj data).trans (if_neg more), fun last => ?_⟩,
      fun reason => rowDone_fails hs hj (negative reason) unitNegative, rowDone_fails hs hj timeout timedOut,
      fun st hst => rowDone_fails hs hj (ended st) hst⟩
    refine (rowDone_positive hs hj data).trans ((if_pos last).trans ((endActive_written ..).trans ?_))
    rw [jobPayload_afterRow]
    rfl

end Sys2Proof.Machine
end

section
/-! The requests of a stream: STREAM OPEN, BLOCK, STREAM END and STREAM ABORT (R72, R73, R82, R87 to R94). -/

namespace Sys2Proof.Machine

/-! ### STREAM OPEN -/

section Open
variable {k : CtxId} {u : State}

/-- R87: the lowest-numbered free context. -/
theorem freeCtx_lowest (hk : streamAt k u = none) (hlow : ∀ l, l < k → streamAt l u ≠ none) : freeCtx u = some k := by
  unfold freeCtx allCtxs
  rw [← Fin.find?_eq_find?_finRange, Fin.find?_eq_some_iff]
  exact ⟨Option.isNone_iff_eq_none.mpr hk, fun l hl => Option.isNone_eq_false_iff.mpr
    (Option.isSome_iff_ne_none.mpr (hlow l hl))⟩

theorem freeCtx_congr {s t : State} (h : s.streams = t.streams) : freeCtx s = freeCtx t := by
  unfold freeCtx streamAt
  rw [h]

theorem heldTimerRestarted_streams (c : ChanId) (v : UnitId) (s : State) :
    (heldTimerRestarted c v s).streams = s.streams := by
  rw [← restartForHolder_eq]
  unfold restartForHolder
  split
  · exact restartClaimTimer_streams v s
  · rfl

theorem heldTimerRestarted_replies (c : ChanId) (v : UnitId) (s : State) :
    (heldTimerRestarted c v s).replies = s.replies := by
  rw [← restartForHolder_eq]
  unfold restartForHolder
  split
  · exact restartClaimTimer_replies v s
  · rfl

theorem noteAdmission_streams (c : ChanId) (r : Request) (g : Option Slot) (cost : Nat) (s : State) :
    (noteAdmission c r g cost s).streams = s.streams := by
  obtain ⟨_, _, _, framed⟩ := noteAdmission_frame c r g cost s
  rw [framed]

/-- R87: a STREAM OPEN of the channel whose record is `ch` binds a free context and is answered at once. -/
theorem handStreamOpen_setChan {x : Stream} {s : State} (hk : freeCtx s = some k) (ch : Channel) :
    handStreamOpen x (setChan x.chan ch s) =
      (setChan x.chan { ch with binding := some k } (setStream k (some x) (heldTimerRestarted x.chan x.unit s)),
        .answered .done [0, 0, 0, 0, BitVec.ofNat 8 k.val] false) := by
  have free : freeCtx (setChan x.chan ch (heldTimerRestarted x.chan x.unit s)) = some k :=
    (freeCtx_congr (heldTimerRestarted_streams ..)).trans hk
  unfold handStreamOpen
  dsimp only
  rw [restartForHolder_eq, heldTimer_setChan, free]
  unfold bindStream
  rw [chanAt_setChan]
  exact congrArg (·, _) (setChan_setChan x.chan _ ch (setStream k (some x) (heldTimerRestarted x.chan x.unit s)))

/-- The channel of an answered STREAM OPEN: STREAMING on its context (R73). -/
theorem answered_open {m : ReqMsg} (h : AtIdle m u) (kind : ReqKind) (k : CtxId) :
    settleChan (freeBuffer m.buf { takeMessage m.buf (rowBody kind m) (chanAt m.chan u) with binding := some k }) =
      { answeredChannel m u with state := .streaming, binding := some k } := by
  have freed : freeBuffer m.buf { takeMessage m.buf (rowBody kind m) (chanAt m.chan u) with binding := some k } =
      { freeBuffer m.buf (takeMessage m.buf (rowBody kind m) (chanAt m.chan u)) with binding := some k } := by
    cases m.buf <;> rfl
  rw [freed, freeBuffer_take _ _ _ h.free]
  unfold settleChan
  rw [stateOfWork_eq, h.state]
  rfl

end Open

/-- Settles O34, by the hand-off of a STREAM OPEN to the lowest free context. -/
theorem streamOpenBindsAContext : Obligations.StreamOpenBindsAContext := by
  intro m v i policy size start total g k s u r ht hi hroom hs hr hg hk hlow
  have row := exec_request_idle ht hi hs hr hg (by simp [r, Request.kind])
  have free : freeCtx (noteAdmission m.chan r (some g) (planOf r u).cost u) = some k :=
    (freeCtx_congr (noteAdmission_streams ..)).trans (freeCtx_lowest hk hlow)
  have opened := handStreamOpen_setChan (x := openedStream m.chan v i policy size start total g) free
    (takeMessage m.buf (rowBody .streamOpen m) (chanAt m.chan u))
  have room : HasRoom (chanPort m.chan) (setStream k (some (openedStream m.chan v i policy size start total g))
      (heldTimerRestarted m.chan v (noteAdmission m.chan r (some g) (planOf r u).cost u))) :=
    hasRoom_congr hroom ((heldTimerRestarted_replies ..).trans (noteAdmission_replies ..))
  refine row.trans (congrArg _
    ((congrArg (fun h : State × HandOff => finishHandOff m.chan m.buf .streamOpen h.2 h.1) opened).trans ?_))
  refine (answerTaken_room m.chan m.buf .streamOpen .done false _ true _ _ room).trans ?_
  rw [answered_open hi]
  rfl

/-! ### What the channel does with the stream engine's answer (R70, R72, R74, R82) -/

section Finish
variable {m : ReqMsg} {k : CtxId} {u w : State}

/-- The message's channel with its request taken, before it is decided. -/
def takenChannel (kind : ReqKind) (m : ReqMsg) (u : State) : Channel :=
  takeMessage m.buf (rowBody kind m) (chanAt m.chan u)

theorem finishHandOff_answered (hc : AtStream m k u) (hr : HasRoom (chanPort m.chan) w) (kind : ReqKind) (st : Status)
    (payload : List Byte) : finishHandOff m.chan m.buf kind (.answered st payload false)
      (setChan m.chan (takenChannel kind m u) w) =
    setChan m.chan (answeredChannel m u) (pushReply (requestReply m.chan m.buf kind st false payload) w) :=
  (answerTaken_room m.chan m.buf kind st false payload true _ w hr).trans
    (congrArg (setChan m.chan · _) (answered_stream hc kind))

/-- NOT_READY sets the buffer mark back (R72). -/
theorem finishHandOff_returned (hc : AtStream m k u) (hr : HasRoom (chanPort m.chan) w) (kind : ReqKind)
    (payload : List Byte) : finishHandOff m.chan m.buf kind (.returned payload) (setChan m.chan (takenChannel kind m u) w) =
    setChan m.chan (chanAt m.chan u) (pushReply (requestReply m.chan m.buf kind .notReady false payload) w) := by
  have answered := finishHandOff_answered hc hr kind .notReady payload
  have back : { answeredChannel m u with expect := m.buf } = chanAt m.chan u := by
    rw [← hc.expect]
    rfl
  unfold finishHandOff at answered ⊢
  dsimp only at answered ⊢
  rw [answered, chanAt_setChan, setChan_setChan, back]

/-- OVERRUN halts the channel, which has nothing staged (R82). -/
theorem finishHandOff_overrun (hc : AtStream m k u) (hr : HasRoom (chanPort m.chan) w) (kind : ReqKind)
    (payload : List Byte) : finishHandOff m.chan m.buf kind (.overrun payload) (setChan m.chan (takenChannel kind m u) w) =
    setChan m.chan { answeredChannel m u with state := .halted, haltCause := some .overrun, clearPending := false }
      (pushReply (requestReply m.chan m.buf kind .overrun false payload) w) := by
  have answered := finishHandOff_answered hc hr kind .overrun payload
  have streaming : (answeredChannel m u).state = .streaming := hc.state
  have unstaged : dropStaged (answeredChannel m u) = answeredChannel m u := by
    unfold dropStaged
    rw [show (answeredChannel m u).staged = none from hc.staged]
  unfold finishHandOff at answered ⊢
  dsimp only at answered ⊢
  rw [answered, haltEntry_working (by rw [chanAt_setChan, streaming]; decide) (by rw [chanAt_setChan, streaming]; decide),
    chanAt_setChan, setChan_setChan, unstaged]

theorem finishHandOff_pending (hc : AtStream m k u) (kind : ReqKind) (place : Place) :
    finishHandOff m.chan m.buf kind (.pends place false) (setChan m.chan (takenChannel kind m u) w) =
      setChan m.chan (pendingChannel kind m false place .streaming u) w :=
  (finishHandOff_pends ..).trans (congrArg (setChan m.chan · w) (pending_stream hc kind false place))

end Finish

/-- The row of a request that a streaming channel takes, with room for its answer: its admission is reported, and the channel
finishes what the operation `take` answers (R37, R38, R72). -/
structure StreamRow (m : ReqMsg) (kind : ReqKind) (k : CtxId) (take : CtxId → State → State × HandOff) (s u : State) : Prop where
  channel : AtStream m k u
  room : HasRoom (chanPort m.chan) u
  row : exec (requestRow kind m) s = .next
    (let h := take k (setChan m.chan (takenChannel kind m u) (admittedReported m.chan u))
    finishHandOff m.chan m.buf kind h.2 h.1)

section Row
variable {m : ReqMsg} {r : Request} {k : CtxId} {s u : State}

/-- BLOCK, STREAM END and STREAM ABORT pass every stage but the freeze (R24, R28). -/
theorem check_stream (hk : r.kind ∈ [.block, .streamEnd, .streamAbort]) (hs : Spells m r) (hf : ¬ Frozen m.chan r.kind u) :
    check m.chan (rowBody r.kind m) u = .admitted r none (Plan.flat 0) := by
  have freeze : freezeStage m.chan r.kind u = none := freezeStage_pass hf
  cases r with
  | block | streamEnd | streamAbort =>
    exact check_of_stages hs (refusalOf_none_iff.mpr ⟨rfl, freeze, rfl, rfl, rfl, rfl, rfl, rfl⟩) (selectGrant_of_no_class rfl)
  | _ => simp [Request.kind] at hk

/-- A request of the three kinds that its channel takes is reported, handed to the channel's context and finished by what the
stream engine's operation `take` answers (R37, R38, R40, R72). -/
theorem streamRow {take : CtxId → State → State × HandOff} (ht : TakenAt s u) (hc : AtStream m k u)
    (hroom : HasRoom (chanPort m.chan) u) (hs : Spells m r) (hf : ¬ Frozen m.chan r.kind u)
    (hk : r.kind = .block ∨ r.kind ∈ [.streamEnd, .streamAbort] ∧ (chanAt m.chan u).active = none)
    (hh : ∀ w, handOff m.chan r none (Plan.flat 0) w = handToStream m.chan take w)
    (hn : noteAdmission m.chan r none 0 u = admittedReported m.chan u) : StreamRow m r.kind k take s u := by
  have kind : r.kind ∈ [.block, .streamEnd, .streamAbort] :=
    hk.elim (fun h => by rw [h]; exact .head _) fun h => .tail _ h.1
  have arrives := arrive_stream (k := r.kind) hc (hk.imp_left fun h => by rw [h]; exact .head _)
  have bound : (takeMessage m.buf (rowBody r.kind m) (chanAt m.chan u)).binding = some k :=
    Eq.trans (by cases m.buf <;> rfl) hc.binding
  refine ⟨hc, hroom, ?_⟩
  rw [exec_row, running_at ht, arrives, decide_admitted rfl (check_stream kind hs hf), hh,
    show (Plan.flat 0).cost = 0 from rfl, hn]
  unfold handToStream takenChannel
  rw [chanAt_setChan, bound]

end Row

section Outcome
variable {m : ReqMsg} {kind : ReqKind} {k : CtxId} {take : CtxId → State → State × HandOff} {s u w : State}

theorem StreamRow.noted_room (h : StreamRow m kind k take s u) (hw : w.replies = (admittedReported m.chan u).replies) :
    HasRoom (chanPort m.chan) w :=
  hasRoom_congr h.room (hw.trans (report_replies ..))

theorem streamAt_noted (c : ChanId) (ch : Channel) (k : CtxId) (u : State) :
    streamAt k (setChan c ch (admittedReported c u)) = streamAt k u :=
  (streamAt_setChan ..).trans (report_streamAt ..)

theorem StreamRow.exec_eq (h : StreamRow m kind k take s u) {o : HandOff}
    (ht : take k (setChan m.chan (takenChannel kind m u) (admittedReported m.chan u)) =
      (setChan m.chan (takenChannel kind m u) w, o)) :
    exec (requestRow kind m) s = .next (finishHandOff m.chan m.buf kind o (setChan m.chan (takenChannel kind m u) w)) :=
  h.row.trans (congrArg _ (congrArg (fun p : State × HandOff => finishHandOff m.chan m.buf kind p.2 p.1) ht))

theorem StreamRow.answered (h : StreamRow m kind k take s u) {st : Status} {payload : List Byte}
    (ht : take k (setChan m.chan (takenChannel kind m u) (admittedReported m.chan u)) =
      (setChan m.chan (takenChannel kind m u) w, .answered st payload false))
    (hw : w.replies = (admittedReported m.chan u).replies) : exec (requestRow kind m) s = .next
      (setChan m.chan (answeredChannel m u) (pushReply (requestReply m.chan m.buf kind st false payload) w)) :=
  (h.exec_eq ht).trans (congrArg _ (finishHandOff_answered h.channel (h.noted_room hw) ..))

theorem StreamRow.returned (h : StreamRow m kind k take s u) {payload : List Byte}
    (ht : take k (setChan m.chan (takenChannel kind m u) (admittedReported m.chan u)) =
      (setChan m.chan (takenChannel kind m u) w, .returned payload))
    (hw : w.replies = (admittedReported m.chan u).replies) : exec (requestRow kind m) s = .next
      (setChan m.chan (chanAt m.chan u) (pushReply (requestReply m.chan m.buf kind .notReady false payload) w)) :=
  (h.exec_eq ht).trans (congrArg _ (finishHandOff_returned h.channel (h.noted_room hw) ..))

theorem StreamRow.overrun (h : StreamRow m kind k take s u) {payload : List Byte}
    (ht : take k (setChan m.chan (takenChannel kind m u) (admittedReported m.chan u)) =
      (setChan m.chan (takenChannel kind m u) w, .overrun payload))
    (hw : w.replies = (admittedReported m.chan u).replies) : exec (requestRow kind m) s = .next
      (setChan m.chan { answeredChannel m u with state := .halted, haltCause := some .overrun, clearPending := false }
        (pushReply (requestReply m.chan m.buf kind .overrun false payload) w)) :=
  (h.exec_eq ht).trans (congrArg _ (finishHandOff_overrun h.channel (h.noted_room hw) ..))

theorem StreamRow.pends (h : StreamRow m kind k take s u) {place : Place}
    (ht : take k (setChan m.chan (takenChannel kind m u) (admittedReported m.chan u)) =
      (setChan m.chan (takenChannel kind m u) w, .pends place false)) :
    exec (requestRow kind m) s = .next (setChan m.chan (pendingChannel kind m false place .streaming u) w) :=
  (h.exec_eq ht).trans (congrArg _ (finishHandOff_pending h.channel ..))

end Outcome

/-! ### BLOCK -/

section Block
variable {k : CtxId} {x : Stream} {data : List Byte} {s : State}

/-- The bytes that slot B, and behind a free slot A a second slot B, can still take (R88). -/
def blockRoom (x : Stream) : Nat := if x.slotA.isSome then x.size - x.slotB.length else 2 * x.size - x.slotB.length

/-- The context with the bytes of a BLOCK behind those of slot B (R88). -/
def grownStream (x : Stream) (data : List Byte) : Stream :=
  { x with idle := some 3000, accepted := x.accepted + data.length, slotB := x.slotB ++ data }

theorem takeBlock_draining (hx : streamAt k s = some x) (hs : x.state = .draining) (data : List Byte) :
    takeBlock k data s = (s, .answered .wrongState (leBytes 4 x.accepted) false) := by
  unfold takeBlock
  rw [hx]
  dsimp only
  rw [hs]

theorem takeBlock_concluded {how : Concluded} (hx : streamAt k s = some x) (hs : x.state = .concluded)
    (hc : x.concluded = some how) (data : List Byte) : takeBlock k data s =
      (setStream k (some { x with release := true }) s, .answered (concludedStatus how) (leBytes 4 x.confirmed) false) := by
  unfold takeBlock
  simp only [hx, hs, endingStatus_concluded hc]

theorem takeBlock_overrun (hx : streamAt k s = some x) (hs : x.state = .filling)
    (ho : x.total < x.accepted + data.length) : takeBlock k data s =
      (setStream k (some { x with idle := some 3000 }) s, .overrun (leBytes 4 x.accepted)) := by
  unfold takeBlock
  simp only [hx, hs]
  exact if_pos ho

theorem takeBlock_returned (hx : streamAt k s = some x) (hs : x.state = .filling)
    (ho : x.accepted + data.length ≤ x.total) (hr : blockRoom x < data.length) : takeBlock k data s =
      (setStream k (some { x with idle := some 3000 }) s, .returned (leBytes 4 x.accepted)) := by
  unfold takeBlock
  simp only [hx, hs]
  exact (if_neg (Nat.not_lt.mpr ho)).trans (if_pos hr)

/-- A BLOCK that fits into slot B is taken, and the slots are swapped if that is due (R88, R89). -/
theorem takeBlock_within (hx : streamAt k s = some x) (hs : x.state = .filling)
    (ho : x.accepted + data.length ≤ x.total) (hr : data.length ≤ blockRoom x)
    (hl : x.slotB.length + data.length ≤ x.size) : takeBlock k data s =
      (swapSlots k (setStream k (some (grownStream x data)) s),
        .answered .done (leBytes 4 (x.accepted + data.length)) false) := by
  have fits : (x.slotB ++ data).length ≤ x.size := List.length_append.trans_le hl
  unfold takeBlock grownStream
  simp only [hx, hs]
  refine (if_neg (Nat.not_lt.mpr ho)).trans ((if_neg (Nat.not_lt.mpr hr)).trans ?_)
  rw [List.take_of_length_le fits, List.drop_of_length_le fits]
  rfl

/-- Slot B stays where slot A is in flight, or where slot B is neither full nor the image's end (R88). -/
theorem takeBlock_kept (hx : streamAt k s = some x) (hs : x.state = .filling)
    (ho : x.accepted + data.length ≤ x.total) (hr : data.length ≤ blockRoom x) (hl : x.slotB.length + data.length ≤ x.size)
    (hk : x.slotA.isSome = true ∨ (x.slotB.length + data.length < x.size ∧ x.accepted + data.length < x.total)) :
    takeBlock k data s =
      (setStream k (some (grownStream x data)) s, .answered .done (leBytes 4 (x.accepted + data.length)) false) := by
  have stays : ¬ swapDue (grownStream x data) = true := fun due => by
    obtain ⟨free, full | ⟨-, last | drains⟩⟩ := swapDue_iff.mp due
    · exact hk.elim (fun h => Option.isSome_iff_ne_none.mp h free)
        fun h => Nat.ne_of_lt h.1 (List.length_append.symm.trans full)
    · exact hk.elim (fun h => Option.isSome_iff_ne_none.mp h free) fun h => Nat.ne_of_lt h.2 last
    · exact absurd (hs.symm.trans drains) (by decide)
  rw [takeBlock_within hx hs ho hr hl, swapSlots_written_idle stays]

/-- With slot A free, a slot B that is just full or ends the image is issued (R89). -/
theorem takeBlock_issued (hx : streamAt k s = some x) (hs : x.state = .filling)
    (ho : x.accepted + data.length ≤ x.total) (hr : data.length ≤ blockRoom x) (hl : x.slotB.length + data.length ≤ x.size)
    (ha : x.slotA = none) (hne : x.slotB ++ data ≠ [])
    (hk : x.slotB.length + data.length = x.size ∨ x.accepted + data.length = x.total) : takeBlock k data s =
      (issueBlock k (grownStream x data) [] s, .answered .done (leBytes 4 (x.accepted + data.length)) false) := by
  have due : swapDue (grownStream x data) = true :=
    swapDue_iff.mpr ⟨ha, hk.imp List.length_append.trans fun last => ⟨hne, .inl last⟩⟩
  rw [takeBlock_within hx hs ho hr hl, swapSlots_written_due due]

/-- A BLOCK that passes slot B fills it; the full slot B is issued and the bytes past it stay in slot B (R88, R89). -/
theorem takeBlock_beyond (hx : streamAt k s = some x) (hs : x.state = .filling)
    (ho : x.accepted + data.length ≤ x.total) (hr : data.length ≤ blockRoom x) (ha : x.slotA = none)
    (hl : x.size < x.slotB.length + data.length) : takeBlock k data s =
      (issueBlock k { grownStream x data with slotB := (x.slotB ++ data).take x.size } ((x.slotB ++ data).drop x.size) s,
        .answered .done (leBytes 4 (x.accepted + data.length)) false) := by
  have passes : x.size < (x.slotB ++ data).length := hl.trans_eq List.length_append.symm
  obtain ⟨b, rest, past⟩ := List.exists_cons_of_ne_nil (List.drop_eq_nil_iff.not.mpr (Nat.not_le.mpr passes))
  have due : swapDue { grownStream x data with slotB := (x.slotB ++ data).take x.size } = true :=
    swapDue_iff.mpr ⟨ha, .inl (List.length_take_of_le passes.le)⟩
  have first := swapSlots_written_due due k s
  unfold takeBlock
  unfold grownStream at first ⊢
  simp only [hx, hs, Config.idleMs] at first ⊢
  refine (if_neg (Nat.not_lt.mpr ho)).trans ((if_neg (Nat.not_lt.mpr hr)).trans ?_)
  rw [past, first, streamAt_issueBlock]
  dsimp only
  rw [swapSlots_written_idle fun h => Option.some_ne_none _ (swapDue_iff.mp h).1]
  exact congrArg (·, _) (setStream_issueBlock ..)

end Block

/-- A BLOCK carries 1 to 240 bytes (11.2). -/
theorem block_length {m : ReqMsg} {data : List Byte} (h : Spells m (.block data)) : 1 ≤ data.length := by
  change parseRequest (rowBody .block m) = some (.block data) at h
  unfold parseRequest rowBody at h
  dsimp only at h
  rw [show kindOf (kindCode .block) = some .block by decide] at h
  dsimp only at h
  split at h
  · split at h
    · next unitKind => cases unitKind
    · split at h
      · unfold parsePlainFields at h
        dsimp only at h
        split at h
        · next fits => cases h; exact fits.1
        · cases h
      · cases h
  · cases h

theorem issueBlock_setChan (k : CtxId) (x : Stream) (rest : List Byte) (c : ChanId) (ch : Channel) (s : State) :
    issueBlock k x rest (setChan c ch s) = setChan c ch (issueBlock k x rest s) := by
  unfold issueBlock
  rw [← restartClaimTimer_setChan, ← placeEntry_setChan]
  rfl

/-- The bytes of a BLOCK behind a slot A in flight fit into slot B (R88). -/
theorem slotB_fits {x : Stream} {data : List Byte} (h1 : 1 ≤ data.length) (hr : data.length ≤ blockRoom x)
    (ha : x.slotA.isSome = true) : x.slotB.length + data.length ≤ x.size := by
  have behind : data.length ≤ x.size - x.slotB.length := hr.trans_eq (if_pos ha)
  omega

/-- Settles O35: by the context's state, the room for the bytes, and the slots. -/
theorem blockIsTakenByTheStream : Obligations.BlockIsTakenByTheStream := by
  intro m data k x s u ht hc hroom hs hf hx noted answered y grown room
  have some_bytes := block_length hs
  have row : StreamRow m .block k (fun k s => takeBlock k data s) s u :=
    streamRow ht hc hroom hs ((not_frozen_iff ..).mpr (hf.imp_right .inl)) (.inl rfl) (fun _ => rfl) rfl
  have bound := (streamAt_noted m.chan (takenChannel .block m u) k u).trans hx
  have units : noted.units = u.units := report_units ..
  refine ⟨fun hfill hover => row.overrun (takeBlock_overrun bound hfill hover) rfl,
    fun hfill hfit hsmall => row.returned (takeBlock_returned bound hfill hfit hsmall) rfl, fun hfill hfit hlarge => ?_,
    fun hdrain => row.answered (takeBlock_draining bound hdrain data) rfl, fun how hconc hhow => ?_⟩
  · have issued : ∀ {z rest}, takeBlock k data (setChan m.chan (takenChannel .block m u) noted) =
          (issueBlock k z rest (setChan m.chan (takenChannel .block m u) noted),
            .answered .done (leBytes 4 (x.accepted + data.length)) false) →
        exec (.block m) s = .next (answered .done (x.accepted + data.length) (issueBlock k z rest noted)) := fun taken =>
      row.answered (taken.trans (congrArg (·, _) (issueBlock_setChan ..))) (issueBlock_replies ..)
    have kept : x.slotB.length + data.length ≤ x.size →
        x.slotA.isSome = true ∨ (x.slotB.length + data.length < x.size ∧ x.accepted + data.length < x.total) →
        exec (.block m) s = .next (answered .done (x.accepted + data.length) (setStream k (some grown) noted)) :=
      fun hl hk => row.answered (takeBlock_kept (x := x) bound hfill hfit hlarge hl hk) rfl
    have ends := fun ha hl hne hk => issued (takeBlock_issued bound hfill hfit hlarge hl ha hne hk)
    have passes := fun ha hl => issued (takeBlock_beyond bound hfill hfit hlarge ha hl)
    refine ⟨fun hk => kept ?_ hk, fun ha hl hne hk => ?_, fun ha hl => ?_, ?_⟩
    · exact hk.elim (slotB_fits some_bytes hlarge) fun h => h.1.le
    · have placed := ends ha hl hne hk
      rw [issueBlock_eq units] at placed
      rw [← List.length_append]
      exact placed
    · have full : ((x.slotB ++ data).take x.size).length = x.size :=
        List.length_take_of_le (hl.le.trans_eq List.length_append.symm)
      have placed := passes ha hl
      rw [issueBlock_eq units] at placed
      dsimp only at placed
      rw [full] at placed
      exact placed
    · by_cases hk : x.slotA.isSome = true ∨ (x.slotB.length + data.length < x.size ∧ x.accepted + data.length < x.total)
      · exact ⟨_, _, kept (hk.elim (slotB_fits some_bytes hlarge) fun h => h.1.le) hk, streamAt_setStream .., rfl, rfl, hfill,
          rfl⟩
      · obtain ⟨flying, short⟩ := not_or.mp hk
        have ha : x.slotA = none := Option.not_isSome_iff_eq_none.mp flying
        by_cases hl : x.size < x.slotB.length + data.length
        · exact ⟨_, _, passes ha hl, streamAt_issueBlock .., rfl, rfl, hfill, rfl⟩
        · have last : x.slotB.length + data.length = x.size ∨ x.accepted + data.length = x.total := by omega
          have some_held : x.slotB ++ data ≠ [] :=
            List.append_ne_nil_of_right_ne_nil _ (List.ne_nil_of_length_pos some_bytes)
          exact ⟨_, _, ends ha (Nat.not_lt.mp hl) some_held last, streamAt_issueBlock .., rfl, rfl, hfill, rfl⟩
  · have ended : exec (.block m) s = .next (answered (concludedStatus how) x.confirmed
        (setStream k (some { x with release := true }) noted)) :=
      row.answered (takeBlock_concluded bound hconc hhow data) rfl
    cases how <;> exact ended

end Sys2Proof.Machine
end

section
/-! STREAM END and STREAM ABORT at a streaming channel (R93, R94). -/

namespace Sys2Proof.Machine

section Ends
variable {k : CtxId} {x : Stream} {s : State} {how : Concluded}

/-! ### STREAM END -/

/-- R93: a FILLING stream with both slots empty ends at once. -/
theorem takeStreamEnd_empty (hx : streamAt k s = some x) (hs : x.state = .filling) (hc : x.concluded = none)
    (ha : x.slotA = none) (hb : x.slotB = []) : takeStreamEnd k s =
      (setStream k (some { x with release := true, idle := none }) s,
        .answered (if x.confirmed = x.total then .done else .short) (leBytes 4 x.confirmed ++ leBytes 4 x.total) false) := by
  have status : endingStatus x = if x.confirmed = x.total then .done else .short := by rw [endingStatus_eq, hc]
  have empty : (x.slotA.isNone && x.slotB.isEmpty) = true := by rw [ha, hb]; rfl
  unfold takeStreamEnd
  rw [hx]
  dsimp only
  rw [if_pos empty, status, hs]
  rfl

/-- The context with a STREAM END that waits for its slots (R93). -/
def drainingStream (x : Stream) : Stream := { x with state := .draining, idle := none, endPending := some .streamEnd }

theorem takeStreamEnd_pending (hx : streamAt k s = some x) (hs : x.state = .filling)
    (h : x.slotA ≠ none ∨ x.slotB ≠ []) :
    takeStreamEnd k s = (swapSlots k (setStream k (some (drainingStream x)) s), .pends (.stream k) false) := by
  have held : ¬ (x.slotA.isNone && x.slotB.isEmpty) = true := by
    rw [Bool.and_eq_true, Option.isNone_iff_eq_none, List.isEmpty_iff, not_and_or]
    exact h
  unfold takeStreamEnd drainingStream
  rw [hx]
  dsimp only
  rw [if_neg held, hs]

/-- R93: a stream with a block in flight drains and its end pends. -/
theorem takeStreamEnd_flying (hx : streamAt k s = some x) (hs : x.state = .filling) (ha : x.slotA ≠ none) :
    takeStreamEnd k s = (setStream k (some (drainingStream x)) s, .pends (.stream k) false) := by
  have still : ¬ swapDue (drainingStream x) = true := fun due => ha (swapDue_iff.mp due).1
  rw [takeStreamEnd_pending hx hs (.inl ha), swapSlots_written_idle still]

/-- R89, R93: what slot B holds is issued behind a free slot A, and the end pends. -/
theorem takeStreamEnd_drains (hx : streamAt k s = some x) (hs : x.state = .filling) (ha : x.slotA = none)
    (hb : x.slotB ≠ []) : takeStreamEnd k s = (issueBlock k (drainingStream x) [] s, .pends (.stream k) false) := by
  have due : swapDue (drainingStream x) = true := swapDue_iff.mpr ⟨ha, .inr ⟨hb, .inr rfl⟩⟩
  rw [takeStreamEnd_pending hx hs (.inr hb), swapSlots_written_due due]

/-- R93: the end of a CONCLUDED context is answered once slot A is free. -/
theorem takeStreamEnd_concluded_free (hx : streamAt k s = some x) (hs : x.state = .concluded) (hc : x.concluded = some how)
    (ha : x.slotA = none) : takeStreamEnd k s = (setStream k (some { x with release := true }) s,
      .answered (concludedStatus how) (leBytes 4 x.confirmed ++ leBytes 4 x.total) false) := by
  unfold takeStreamEnd
  rw [hx]
  dsimp only
  rw [endingStatus_concluded hc, if_pos (Option.isNone_iff_eq_none.mpr ha), hs]
  rfl

theorem takeStreamEnd_concluded_flying (hx : streamAt k s = some x) (hs : x.state = .concluded) (ha : x.slotA ≠ none) :
    takeStreamEnd k s = (setStream k (some { x with endPending := some .streamEnd }) s, .pends (.stream k) false) := by
  unfold takeStreamEnd
  rw [hx]
  dsimp only
  rw [if_neg (Option.isNone_iff_eq_none.not.mpr ha), hs]

/-! ### STREAM ABORT -/

/-- The context an abort concludes (R94). -/
def abortedStream (x : Stream) : Stream :=
  { x with state := .concluded, concluded := some .aborted, slotB := [], idle := none }

/-- R94: a FILLING stream is concluded STREAM_ABORTED; the abort is answered where slot A is free and pends otherwise. -/
theorem takeStreamAbort_filling (hx : streamAt k s = some x) (hs : x.state = .filling) : takeStreamAbort k s =
    if x.slotA = none then (setStream k (some { abortedStream x with release := true }) s,
      .answered .streamAborted (leBytes 4 x.confirmed) false)
    else (setStream k (some { abortedStream x with endPending := some .streamAbort }) s, .pends (.stream k) false) := by
  unfold takeStreamAbort
  rw [hx]
  dsimp only
  rw [hs]
  exact if_congr Option.isNone_iff_eq_none rfl rfl

/-- R94: a CONCLUDED context keeps its status; the abort is answered where slot A is free and pends otherwise. -/
theorem takeStreamAbort_concluded (hx : streamAt k s = some x) (hs : x.state = .concluded) (hc : x.concluded = some how) :
    takeStreamAbort k s =
    if x.slotA = none then (setStream k (some { x with release := true }) s,
      .answered (concludedStatus how) (leBytes 4 x.confirmed) false)
    else (setStream k (some { x with endPending := some .streamAbort }) s, .pends (.stream k) false) := by
  rw [← endingStatus_concluded hc]
  unfold takeStreamAbort
  rw [hx]
  dsimp only
  rw [hs]
  dsimp only
  rw [hs]
  exact if_congr Option.isNone_iff_eq_none rfl rfl

end Ends

/-- Settles O36: STREAM END and STREAM ABORT, each by the context's state and its slots. -/
theorem streamEndAndAbort : Obligations.StreamEndAndAbort := by
  intro m k x s u ht hc hactive hroom hx noted counts answered pends status
  have bound : ∀ kind, streamAt k (setChan m.chan (takenChannel kind m u) noted) = some x := fun kind =>
    (streamAt_noted m.chan (takenChannel kind m u) k u).trans hx
  have units : noted.units = u.units := report_units ..
  have status_eq : ∀ how, concludedStatus how = status how := fun how => by cases how <;> rfl
  have exempt : ∀ kind ∈ [ReqKind.streamEnd, .streamAbort], ¬ Frozen m.chan kind u := fun kind hk =>
    (not_frozen_iff ..).mpr (.inr (.inr (by revert kind; decide)))
  have endRow : Spells m .streamEnd → StreamRow m .streamEnd k takeStreamEnd s u := fun hs =>
    streamRow ht hc hroom hs (exempt _ (by decide)) (.inr ⟨by decide, hactive⟩) (fun _ => rfl) rfl
  have abortRow : Spells m .streamAbort → StreamRow m .streamAbort k takeStreamAbort s u := fun hs =>
    streamRow ht hc hroom hs (exempt _ (by decide)) (.inr ⟨by decide, hactive⟩) (fun _ => rfl) rfl
  refine ⟨fun hs hf hnone ha hb => (endRow hs).answered (takeStreamEnd_empty (bound _) hf hnone ha hb) rfl,
    fun hs hf ha => (endRow hs).pends (takeStreamEnd_flying (bound _) hf ha), fun hs hf ha hb => ?_,
    fun how hs hconc hhow => ⟨fun ha => ?_, fun ha => (endRow hs).pends (takeStreamEnd_concluded_flying (bound _) hconc ha)⟩,
    fun hs hf => ?_, fun how hs hconc hhow => ?_⟩
  · have drains := (endRow hs).pends ((takeStreamEnd_drains (bound _) hf ha hb).trans (congrArg (·, _) (issueBlock_setChan ..)))
    rw [issueBlock_eq units] at drains
    exact drains
  · rw [← status_eq]
    exact (endRow hs).answered (takeStreamEnd_concluded_free (bound _) hconc hhow ha) rfl
  · have aborts := takeStreamAbort_filling (bound .streamAbort) hf
    exact ⟨fun ha => (abortRow hs).answered (aborts.trans (if_pos ha)) rfl,
      fun ha => (abortRow hs).pends (aborts.trans (if_neg ha))⟩
  · have aborts := takeStreamAbort_concluded (bound .streamAbort) hconc hhow
    rw [← status_eq]
    exact ⟨fun ha => (abortRow hs).answered (aborts.trans (if_pos ha)) rfl,
      fun ha => (abortRow hs).pends (aborts.trans (if_neg ha))⟩

end Sys2Proof.Machine
end

section
/-! MAP READ and MAP WRITE handed to the map engine (R38, R101, R102). -/

namespace Sys2Proof.Machine

/-! ### The engine takes a job (R102) -/

section Take
variable {job : Job} {s : State}

/-- An empty engine makes the job its active one. -/
theorem takeJob_empty (ha : s.map.active = none) (hq : s.map.queue = []) :
    takeJob job s = setMap { s.map with active := some job } s := by
  have held : jobsOf s.map = [] := by rw [jobsOf, ha, hq]; rfl
  simp [takeJob, placesOf, held, hq]

/-- Behind an active job, the job joins the queue's tail. -/
theorem takeJob_behind (ha : s.map.active ≠ none) :
    takeJob job s = setMap { s.map with queue := s.map.queue ++ [job] } s := by
  obtain ⟨first, hfirst⟩ := Option.ne_none_iff_exists'.mp ha
  have held : jobsOf s.map = first :: s.map.queue := by rw [jobsOf, hfirst]; rfl
  simp [takeJob, placesOf, held, hfirst]

theorem takeJob_setChan (job : Job) (c : ChanId) (ch : Channel) (s : State) :
    takeJob job (setChan c ch s) = setChan c ch (takeJob job s) := rfl

/-- A job handed to the engine does not read or write its channel's record. -/
theorem handJob_setChan (job : Job) (clamped : Bool) (c : ChanId) (ch : Channel) (s : State) :
    handJob job clamped (setChan c ch s) =
      (setChan c ch (takeJob job (heldTimerRestarted job.chan job.unit s)), .pends .map clamped) := by
  unfold handJob
  rw [restartForHolder_eq, heldTimer_setChan, takeJob_setChan]

end Take

theorem heldTimerRestarted_map (c : ChanId) (v : UnitId) (s : State) : (heldTimerRestarted c v s).map = s.map := by
  unfold heldTimerRestarted
  dsimp only
  split <;> rfl

theorem mapAt_congr {s t : State} (h : s.units = t.units) (v : UnitId) (j : Fin 4) : mapAt v j s = mapAt v j t := by
  unfold mapAt
  rw [unitAt_congr h]

/-! ### The hand-off of a map request (R38) -/

/-- A request for the job of a kind on map `j` of unit `v`, from row `r0` and column `c0` on (R101). -/
def IsMapRequest (r : Request) (kind : JobKind) (v : UnitId) (j : Fin 4) (r0 c0 : Nat) : Prop :=
  (∃ w1 h1, r = .mapRead v j r0 c0 w1 h1 ∧ kind = .read) ∨
    (∃ w1 h1 key mask cells, r = .mapWrite v j r0 c0 w1 h1 key mask cells ∧ kind = .write)

section HandOff
variable {r : Request} {kind : JobKind} {v : UnitId} {j : Fin 4} {r0 c0 : Nat} {d : MapDef} {g : Slot} {p : Plan}
  {c : ChanId} {s : State}

/-- The job of a request for a defined map, before its first row (R101). -/
def newJob (kind : JobKind) (c : ChanId) (v : UnitId) (j : Fin 4) (d : MapDef) (g : Slot) (r0 c0 : Nat) (p : Plan) :
    Job where
  kind := kind
  chan := c
  unit := v
  map := j
  window := d.window
  grant := g
  r0 := r0
  c0 := c0
  width := p.width
  height := p.height
  plan := p.rows
  done := 0
  assembly := []
  issuing := false

theorem jobOf_eq (hd : mapAt v j s = some d) : jobOf kind c v j r0 c0 g p s = newJob kind c v j d g r0 c0 p := by
  unfold jobOf
  rw [hd]
  rfl

theorem kind_of_mapRequest (h : IsMapRequest r kind v j r0 c0) :
    r.kind ∉ [.channelOpen, .channelClose, .block, .streamEnd, .streamAbort] := by
  obtain ⟨_, _, rfl, -⟩ | ⟨_, _, _, _, _, rfl, -⟩ := h <;> simp [Request.kind]

/-- A MAP READ, and a MAP WRITE with runs, is handed to the engine as its job. -/
theorem handOff_job (h : IsMapRequest r kind v j r0 c0) (hd : mapAt v j s = some d) (hp : kind = .read ∨ p.cost ≠ 0) :
    handOff c r (some g) p s = handJob (newJob kind c v j d g r0 c0 p) p.clamped s := by
  rw [← jobOf_eq hd]
  obtain ⟨w1, h1, rfl, rfl⟩ | ⟨w1, h1, key, mask, cells, rfl, rfl⟩ := h
  · rfl
  · exact if_neg (hp.resolve_left nofun)

/-- A MAP WRITE without runs is answered DONE with a run count of 0, at once. -/
theorem handOff_emptyWrite (h : IsMapRequest r .write v j r0 c0) (hp : p.cost = 0) (g : Option Slot) :
    handOff c r g p s = (heldTimerRestarted c v s, .answered .done [0] false) := by
  rw [← restartForHolder_eq]
  obtain ⟨w1, h1, -, hkind⟩ | ⟨w1, h1, key, mask, cells, rfl, -⟩ := h
  · cases hkind
  · exact if_pos hp

end HandOff

/-! ### The request rows (R101, R102) -/

section Row
variable {m : ReqMsg} {r : Request} {kind : JobKind} {v : UnitId} {j : Fin 4} {r0 c0 : Nat} {d : MapDef} {g : Slot}
  {s u : State}

/-- The engine takes the job of an admitted map request, which pends there. -/
theorem exec_mapJob (ht : TakenAt s u) (hi : AtIdle m u) (hs : Spells m r) (hr : refusalOf m.chan r u = none)
    (hg : selectGrant m.chan r u = some g) (hd : mapAt v j u = some d) (h : IsMapRequest r kind v j r0 c0)
    (hp : kind = .read ∨ (planOf r u).cost ≠ 0) :
    exec (requestRow r.kind m) s = .next
      (setChan m.chan (pendingChannel r.kind m (planOf r u).clamped .map .busy u)
        (takeJob (newJob kind m.chan v j d g r0 c0 (planOf r u))
          (heldTimerRestarted m.chan v (noteAdmission m.chan r (some g) (planOf r u).cost u)))) := by
  have defined : ∀ ch, mapAt v j (setChan m.chan ch (noteAdmission m.chan r (some g) (planOf r u).cost u)) = some d :=
    fun ch => (mapAt_congr (noteAdmission_units ..) v j).trans hd
  rw [exec_request_idle ht hi hs hr hg (kind_of_mapRequest h), handOff_job h (defined _) hp, handJob_setChan]
  dsimp only
  rw [finishHandOff_pends, pending_idle hi]
  rfl

/-- A MAP WRITE without runs never reaches the engine: its channel is answered at once. -/
theorem exec_emptyWrite (ht : TakenAt s u) (hi : AtIdle m u) (hs : Spells m r) (hr : refusalOf m.chan r u = none)
    (hg : selectGrant m.chan r u = some g) (h : IsMapRequest r .write v j r0 c0) (hp : (planOf r u).cost = 0)
    (hroom : HasRoom (chanPort m.chan) u) :
    exec (requestRow r.kind m) s = .next
      (setChan m.chan (answeredChannel m u) (pushReply (requestReply m.chan m.buf r.kind .done false [0])
        (heldTimerRestarted m.chan v (noteAdmission m.chan r (some g) (planOf r u).cost u)))) := by
  have room : HasRoom (chanPort m.chan)
      (heldTimerRestarted m.chan v (noteAdmission m.chan r (some g) (planOf r u).cost u)) :=
    hasRoom_congr hroom ((heldTimerRestarted_replies ..).trans (noteAdmission_replies ..))
  rw [exec_request_idle ht hi hs hr hg (kind_of_mapRequest h), handOff_emptyWrite h hp, heldTimer_setChan]
  exact congrArg _ ((answerTaken_room m.chan m.buf r.kind .done false [0] true _ _ room).trans
    (by rw [answered_idle hi]))

end Row

/-- Settles O30: a request with work is a job, placed by whether the engine is empty; a MAP WRITE without runs is
answered. -/
theorem mapRequestsBecomeJobs : Obligations.MapRequestsBecomeJobs := by
  intro m r v j d r0 c0 kind g s u ht hi hs hr hg hd h p job noted pending
  have engine : noted.map = u.map := (heldTimerRestarted_map ..).trans (noteAdmission_map ..)
  refine ⟨fun hp => ?_, fun hkind hp hroom => ?_⟩
  · have row : exec (requestRow r.kind m) s = .next (pending (takeJob job noted)) :=
      exec_mapJob ht hi hs hr hg hd h hp
    rw [← engine]
    exact ⟨fun ha hq => by rw [row, takeJob_empty ha hq], fun ha => by rw [row, takeJob_behind ha]⟩
  · subst hkind
    have write : r.kind = .mapWrite := by
      obtain ⟨_, _, -, hkind⟩ | ⟨_, _, _, _, _, rfl, -⟩ := h
      · cases hkind
      · rfl
    rw [← write]
    exact exec_emptyWrite ht hi hs hr hg h hp hroom

end Sys2Proof.Machine
end

section
/-! Sending on a unit bus (R120, R121, R124, R128): the entry that the arbiter begins, and what a frame that is sent changes. -/

namespace Sys2Proof.Machine

/-! ### The arbiter's pick (R120) -/

/-- What the arbiter compares: class, then moment of entry, then unit number. -/
def arbiterKey (q : QEntry) : Nat ×ₗ Nat ×ₗ UnitId := toLex (q.cls, toLex (q.entered, q.unit))

theorem arbiterKey_le_iff (p q : QEntry) : arbiterKey p ≤ arbiterKey q ↔ p.cls < q.cls ∨
    (p.cls = q.cls ∧ (p.entered < q.entered ∨ (p.entered = q.entered ∧ p.unit ≤ q.unit))) := by
  unfold arbiterKey
  rw [Prod.Lex.toLex_le_toLex, Prod.Lex.toLex_le_toLex]

theorem beforeInQueue_iff (p q : QEntry) : beforeInQueue p q = true ↔ arbiterKey p < arbiterKey q := by
  unfold arbiterKey beforeInQueue
  rw [Prod.Lex.toLex_lt_toLex, Prod.Lex.toLex_lt_toLex]
  simp only [Bool.or_eq_true, Bool.and_eq_true, decide_eq_true_eq, beq_iff_eq, Fin.val_fin_lt]

/-- The arbiter's comparison of its pick so far with the next entry is that of a first minimum. -/
theorem betterEntry_eq (best : Option QEntry) (q : QEntry) :
    betterEntry best q = List.argAux (fun x y : QEntry => arbiterKey x < arbiterKey y) best q := by
  cases best with
  | none => rfl
  | some p => exact if_congr (beforeInQueue_iff q p) rfl rfl

theorem pickEntry_eq_argmin (queue : List QEntry) : pickEntry queue = queue.argmin arbiterKey := by
  unfold pickEntry
  rw [funext fun best => funext (betterEntry_eq best)]
  rfl

/-- R120: a queue that is not empty has a pick, of the lowest class, then oldest, then of the lowest unit number. -/
theorem pickEntry_of_ne_nil {queue : List QEntry} (h : queue ≠ []) : ∃ q, pickEntry queue = some q ∧ q ∈ queue ∧
    ∀ p ∈ queue, q.cls < p.cls ∨ (q.cls = p.cls ∧ (q.entered < p.entered ∨ (q.entered = p.entered ∧ q.unit ≤ p.unit))) := by
  have found : queue.argmin arbiterKey ≠ none := mt List.argmin_eq_none.mp h
  obtain ⟨q, hq⟩ := Option.ne_none_iff_exists'.mp found
  exact ⟨q, (pickEntry_eq_argmin queue).trans hq, List.argmin_mem hq, fun p hp =>
    (arbiterKey_le_iff q p).mp (List.le_of_mem_argmin hp hq)⟩

/-! ### Beginning a message -/

section Sending
variable {b : BusId} {s : State} {q : QEntry} {n : Nat}

theorem canBegin_iff (x : Bus) : canBegin x = true ↔ x.state = .active ∧ x.tx = none ∧ x.wire = none := by
  unfold canBegin
  rw [Bool.and_eq_true, Bool.and_eq_true, beq_iff_eq, Option.isNone_iff_eq_none, Option.isNone_iff_eq_none, and_assoc]

theorem beginMessage_idle (h : (busAt b s).state ≠ .active ∨ (busAt b s).tx ≠ none ∨ (busAt b s).wire ≠ none ∨
    (busAt b s).queue = []) : beginMessage b s = s := by
  unfold beginMessage
  dsimp only
  split
  · rename_i can
    obtain ⟨active, idle, free⟩ := (canBegin_iff _).mp can
    rcases h with h | h | h | h
    · exact absurd active h
    · exact absurd idle h
    · exact absurd free h
    · rw [h]
      rfl
  · rfl

theorem beginMessage_begins (ha : (busAt b s).state = .active) (ht : (busAt b s).tx = none) (hw : (busAt b s).wire = none)
    (hq : pickEntry (busAt b s).queue = some q) : beginMessage b s =
      report ⟨.unitMessages, q.source.bind sourcePort, some b, some q.unit⟩
        (setBus b { busAt b s with tx := some ⟨q, 0⟩, wire := some (entryFrame q 0) } s) := by
  unfold beginMessage
  dsimp only
  rw [if_pos ((canBegin_iff _).mpr ⟨ha, ht, hw⟩), hq]

/-! ### A frame that is sent -/

theorem frameSent_idle (h : (busAt b s).wire = none) : frameSent b s = s := by
  unfold frameSent
  dsimp only
  rw [h]

/-- The frame of a dropped message only leaves the wire (log 13). -/
theorem frameSent_dropped (hw : (busAt b s).wire ≠ none) (ht : (busAt b s).tx = none) : frameSent b s =
    setBus b { busAt b s with errors := (busAt b s).errors - 1, wire := none } s := by
  obtain ⟨f, hf⟩ := Option.ne_none_iff_exists'.mp hw
  unfold frameSent
  dsimp only
  rw [hf, ht]

/-- The bus with the next segment of `q`'s message on its wire (R121). -/
def nextSegment (q : QEntry) (n : Nat) (x : Bus) : Bus := { x with
  errors := x.errors - 1, tx := some ⟨q, n + 1⟩, wire := some (entryFrame q (n + 1)) }

/-- The bus after the last segment of `q`'s message: the message has left the queue (R121). -/
def messageGone (q : QEntry) (x : Bus) : Bus := { x with
  errors := x.errors - 1, tx := none, wire := none, queue := x.queue.filter fun p => !sameEntry p q }

theorem frameSent_segment (hw : (busAt b s).wire ≠ none) (ht : (busAt b s).tx = some ⟨q, n⟩) : frameSent b s =
    if n + 1 < segmentCount (entryBody q).length then setBus b (nextSegment q n (busAt b s)) s
    else awaitReply q (setBus b (messageGone q (busAt b s)) s) := by
  obtain ⟨f, hf⟩ := Option.ne_none_iff_exists'.mp hw
  unfold frameSent
  dsimp only
  rw [hf, ht]
  rfl

theorem frameSent_next (hw : (busAt b s).wire ≠ none) (ht : (busAt b s).tx = some ⟨q, n⟩)
    (hn : n + 1 < segmentCount (entryBody q).length) : frameSent b s = setBus b (nextSegment q n (busAt b s)) s :=
  (frameSent_segment hw ht).trans (if_pos hn)

theorem frameSent_last (hw : (busAt b s).wire ≠ none) (ht : (busAt b s).tx = some ⟨q, n⟩)
    (hn : segmentCount (entryBody q).length ≤ n + 1) :
    frameSent b s = awaitReply q (setBus b (messageGone q (busAt b s)) s) :=
  (frameSent_segment hw ht).trans (if_neg hn.not_gt)

/-- A PRESENCE frame has no reply (R60). -/
theorem awaitReply_presence (h : q.source = none) : awaitReply q s = s := by
  unfold awaitReply
  rw [h]

theorem awaitReply_request {d : UnitDef} (h : q.source ≠ none) (hd : (unitAt q.unit s).defn = some d) :
    awaitReply q s = setUnit q.unit { unitAt q.unit s with
      awaited := some { tag := q.tag, msg := q.msg, waits := 0, timer := d.timeout } } s := by
  obtain ⟨source, hs⟩ := Option.ne_none_iff_exists'.mp h
  unfold awaitReply
  dsimp only
  rw [hs, hd]

end Sending

/-- Settles O42, by the arbiter's pick as a first minimum and the cases of a frame that is sent. -/
theorem messagesAreBegunAndSent : Obligations.MessagesAreBegunAndSent := by
  intro b s u ht bus frame segments
  have begins : exec (.messageBegin b) s = .next (beginMessage b u) := running_at ht
  have sends : exec (.frameSent b) s = .next (frameSent b u) := running_at ht
  rw [begins, sends]
  refine ⟨fun h => ?_, fun ha hx hw hq => ?_, fun hw => ?_, fun hw hx => ?_, fun q n hw hx => ⟨fun hn => ?_, fun hn => ?_⟩⟩
  · rw [beginMessage_idle h]
  · obtain ⟨q, pick, mem, first⟩ := pickEntry_of_ne_nil hq
    refine ⟨q, mem, first, ?_⟩
    rw [beginMessage_begins ha hx hw pick]
    rfl
  · rw [frameSent_idle hw]
  · rw [frameSent_dropped hw hx]
  · rw [frameSent_next hw hx hn]
    rfl
  · intro left
    rw [frameSent_last hw hx hn]
    refine ⟨fun hs => ?_, fun d hs hd => ?_⟩
    · rw [awaitReply_presence hs]
      rfl
    · rw [awaitReply_request (s := setBus b (messageGone q bus) u) hs hd]
      rfl

end Sys2Proof.Machine
end

section
/-! Failed frames and bus-off (R66, R128 to R130): the cases of a failed frame, and what the end of a bus leaves. -/

namespace Sys2Proof.Machine

/-! ### A frame that fails (R128) -/

section Failing
variable {b : BusId} {picks : List Nat} {s : State}

theorem frameFailed_idle (h : (busAt b s).wire = none) : frameFailed b picks s = s := by
  unfold frameFailed
  dsimp only
  rw [h]

/-- R128 in its cases, for a wire that holds a frame. -/
theorem frameFailed_eq (hw : (busAt b s).wire ≠ none) : frameFailed b picks s =
    if (busAt b s).errors + 8 ≤ 255 then setBus b { busAt b s with
      errors := (busAt b s).errors + 8, wire := if (busAt b s).tx.isSome then (busAt b s).wire else none } s
    else if (busAt b s).state = .active then busOff b picks s
    else setBus b { busAt b s with errors := 255, wire := none } s := by
  obtain ⟨f, hf⟩ := Option.ne_none_iff_exists'.mp hw
  unfold frameFailed
  dsimp only
  rw [hf]

/-- A frame that is sent again stays on the wire. -/
theorem frameFailed_again (hw : (busAt b s).wire ≠ none) (ht : (busAt b s).tx ≠ none) (he : (busAt b s).errors + 8 ≤ 255) :
    frameFailed b picks s = setBus b { busAt b s with errors := (busAt b s).errors + 8 } s := by
  rw [frameFailed_eq hw, if_pos he, if_pos (Option.isSome_iff_ne_none.mpr ht)]

/-- The frame of a dropped message is not sent again (log 28). -/
theorem frameFailed_dropped (hw : (busAt b s).wire ≠ none) (ht : (busAt b s).tx = none) (he : (busAt b s).errors + 8 ≤ 255) :
    frameFailed b picks s = setBus b { busAt b s with errors := (busAt b s).errors + 8, wire := none } s := by
  rw [frameFailed_eq hw, if_pos he, ht]
  rfl

/-- On a bus that is not ACTIVE the count is held at 255 (log 28). -/
theorem frameFailed_held (hw : (busAt b s).wire ≠ none) (ha : (busAt b s).state ≠ .active)
    (he : 255 < (busAt b s).errors + 8) :
    frameFailed b picks s = setBus b { busAt b s with errors := 255, wire := none } s := by
  rw [frameFailed_eq hw, if_neg he.not_ge, if_neg ha]

theorem frameFailed_off (hw : (busAt b s).wire ≠ none) (ha : (busAt b s).state = .active)
    (he : 255 < (busAt b s).errors + 8) : frameFailed b picks s = busOff b picks s := by
  rw [frameFailed_eq hw, if_neg he.not_ge, if_pos ha]

/-! ### Recovery (R130) -/

theorem recoveryExpires_stopped (h : (busAt b s).recovery = none) : recoveryExpires b s = s := by
  unfold recoveryExpires
  dsimp only
  rw [h]

theorem recoveryExpires_off (hr : (busAt b s).recovery ≠ none) (hs : (busAt b s).state = .off) : recoveryExpires b s =
    setBus b { busAt b s with state := .active, errors := 0, recovery := none } s := by
  obtain ⟨n, hn⟩ := Option.ne_none_iff_exists'.mp hr
  unfold recoveryExpires
  dsimp only
  rw [hn]
  exact if_pos hs

end Failing

/-! ### The consequences of a bus's end, in any order -/

section BusEnd
variable {b : BusId} {w : UnitId} (r : ClaimReason) (st : Status) (picks : List Nat) {s : State}

theorem busLeftUnit_reasm (un : UnitRec) : (busLeftUnit un).reasm = none := by
  unfold busLeftUnit
  split
  · rfl
  · rfl

theorem keepsBuses_busConsequence {q : Consequence} (hq : q ∈ busConsequences b r st) (v : State) :
    KeepsBuses v (runConsequence q v) := by
  rcases mem_busConsequences.mp hq with ⟨x, rfl⟩ | ⟨k, rfl⟩ | rfl
  · unfold runConsequence
    dsimp only
    split
    · exact keepsBuses_endUnitWork ..
    · exact keepsBuses_refl v
  · unfold runConsequence
    dsimp only
    split
    · exact keepsBuses_concludeStream ..
    · exact keepsBuses_refl v
  · exact keepsBuses_endJobs ..

theorem keepsBuses_busEnd (b : BusId) (s : State) : KeepsBuses s (runAll picks (busConsequences b r st) s) :=
  runAll_keeps (P := KeepsBuses s) _ (fun _ hq v hv => keepsBuses_trans hv (keepsBuses_busConsequence r st hq v)) picks s
    (keepsBuses_refl s)

/-- The end of one bus leaves the units of the other as they were. -/
theorem unitAt_busEnd_other (hw : unitBus w s ≠ some b) :
    unitAt w (runAll picks (busConsequences b r st) s) = unitAt w s := by
  refine runAll_keeps (P := fun v => unitAt w v = unitAt w s) _ (fun q hq v hv => ?_) picks s rfl
  rcases busConsequence_unit hq w v with same | ⟨hb, -⟩
  · exact same.trans hv
  · exact absurd (show unitBus w s = some b by rw [← hb]; unfold unitBus; rw [hv]) hw

/-- A unit of the bus ends as R66 says: each consequence leaves `busLeftUnit` of its record as it is, and the one that reaches
the unit brings the record there. -/
theorem unitAt_busEnd_on (hw : unitBus w s = some b) :
    unitAt w (runAll picks (busConsequences b r st) s) = busLeftUnit (unitAt w s) := by
  have goal : busLeftUnit (unitAt w (runAll picks (busConsequences b r st) s)) = busLeftUnit (unitAt w s) := by
    refine runAll_keeps (P := fun v => busLeftUnit (unitAt w v) = busLeftUnit (unitAt w s)) _ (fun q hq v hv => ?_) picks s rfl
    rcases busConsequence_unit hq w v with same | ⟨-, left⟩
    · rw [same, hv]
    · rw [left, busLeftUnit_idem, hv]
  have arrived : unitBus w (runAll picks (busConsequences b r st) s) = some b →
      busLeftUnit (unitAt w (runAll picks (busConsequences b r st) s)) =
        unitAt w (runAll picks (busConsequences b r st) s) := by
    refine runAll_reaches_kept (P := fun v => unitBus w v = some b → busLeftUnit (unitAt w v) = unitAt w v)
      (.unitBusEnd w b r st) _ (mem_busConsequences.mpr (Or.inl ⟨w, rfl⟩)) (fun v hv => ?_) (fun q hq v hv hb => ?_) picks s
    · rw [unitBus_winds (winds_runConsequence (Winds.refl v) _)] at hv
      rw [unitBusEnd_reaches hv, busLeftUnit_idem]
    · rw [unitBus_winds (winds_runConsequence (Winds.refl v) _)] at hb
      rcases busConsequence_unit hq w v with same | ⟨-, left⟩
      · rw [same, hv hb]
      · rw [left, busLeftUnit_idem]
  rw [← goal, arrived (by rw [unitBus_winds (winds_runAll (Winds.refl s) picks _), hw])]

end BusEnd

/-! ### Bus-off (R129) -/

theorem emptyBus_buses (b : BusId) (s : State) :
    (emptyBus b s).buses = (setBus b { busAt b s with queue := [], tx := none } s).buses := rfl

theorem busAt_emptyBus (b : BusId) (s : State) : busAt b (emptyBus b s) = { busAt b s with queue := [], tx := none } :=
  (congrArg (fun t => t.get b) (emptyBus_buses b s)).trans (busAt_setBus ..)

theorem busAt_emptyBus_other {a b : BusId} (h : a ≠ b) (s : State) : busAt a (emptyBus b s) = busAt a s :=
  (congrArg (fun t => t.get a) (emptyBus_buses b s)).trans (busAt_setBus_other _ s h)

/-- The bus just OFF, before its units' work is answered. -/
def offState (b : BusId) (s : State) : State :=
  handBusFault (setBus b { busAt b (emptyBus b s) with
    state := .off, recovery := some Config.recoveryMs, errors := 255, wire := none } (emptyBus b s))

section Off
variable {b : BusId} {w : UnitId} {s : State}

theorem busOff_eq (b : BusId) (picks : List Nat) (s : State) :
    busOff b picks s = runAll picks (busConsequences b .busFault .busFault) (offState b s) := rfl

theorem busAt_offState (b : BusId) (s : State) : busAt b (offState b s) =
    { state := .off, queue := [], tx := none, wire := none, errors := 255, recovery := some 200 } := by
  unfold offState
  rw [handBusFault_busAt, busAt_setBus, busAt_emptyBus]
  rfl

theorem busAt_offState_other {a : BusId} (h : a ≠ b) : busAt a (offState b s) = busAt a s := by
  unfold offState
  rw [handBusFault_busAt, busAt_setBus_other _ _ h, busAt_emptyBus_other h]

theorem unitAt_offState (b : BusId) (w : UnitId) (s : State) : unitAt w (offState b s) =
    if unitBus w s = some b then dropReplies (unitAt w s) else unitAt w s := by
  unfold offState
  rw [handBusFault_unitAt, unitAt_setBus, unitAt_emptyBus]

theorem unitBus_offState (b : BusId) (w : UnitId) (s : State) : unitBus w (offState b s) = unitBus w s := by
  unfold unitBus
  rw [unitAt_offState]
  split
  · rfl
  · rfl

theorem busAt_busOff (picks : List Nat) : busAt b (busOff b picks s) =
    { state := .off, queue := [], tx := none, wire := none, errors := 255, recovery := some 200 } := by
  obtain ⟨buses, -⟩ := keepsBuses_busEnd .busFault .busFault picks b (offState b s)
  exact (congrArg (fun t => t.get b) buses).trans (busAt_offState b s)

theorem busAt_busOff_other {a : BusId} (h : a ≠ b) (picks : List Nat) : busAt a (busOff b picks s) = busAt a s := by
  obtain ⟨buses, -⟩ := keepsBuses_busEnd .busFault .busFault picks b (offState b s)
  exact (congrArg (fun t => t.get a) buses).trans (busAt_offState_other h)

theorem busFault_busOff (b : BusId) (picks : List Nat) (s : State) : (busOff b picks s).monitor.busFault = true := by
  obtain ⟨-, fault⟩ := keepsBuses_busEnd .busFault .busFault picks b (offState b s)
  exact fault rfl

theorem unitAt_busOff_other (h : unitBus w s ≠ some b) (picks : List Nat) : unitAt w (busOff b picks s) = unitAt w s := by
  rw [busOff_eq, unitAt_busEnd_other _ _ _ (by rwa [unitBus_offState]), unitAt_offState, if_neg h]

theorem unitAt_busOff_on (h : unitBus w s = some b) (picks : List Nat) :
    unitAt w (busOff b picks s) = busLeftUnit (unitAt w s) := by
  rw [busOff_eq, unitAt_busEnd_on _ _ _ (by rwa [unitBus_offState]), unitAt_offState, if_pos h, busLeftUnit_dropReplies]

theorem busOff_nothingOnBus (b : BusId) (picks : List Nat) (s : State) : NothingOnBus b (busOff b picks s) := by
  rw [busOff_eq]
  exact busEnd_nothingOnBus (fun _ hq => hq) picks _

theorem offState_frame (b : BusId) (s : State) :
    ∃ us bs m, offState b s = { s with units := us, buses := bs, monitor := m } := by
  obtain ⟨us, bs, frame⟩ := emptyBus_frame b s
  unfold offState
  rw [frame]
  exact ⟨_, _, _, rfl⟩

/-- Bus-off leaves the grant table, the lines and the Service Port alone. -/
theorem busOff_tables (b : BusId) (picks : List Nat) (s : State) : (busOff b picks s).grants = s.grants ∧
    (busOff b picks s).filtered = s.filtered ∧ (busOff b picks s).spt = s.spt := by
  have winds : Winds (offState b s) (busOff b picks s) := winds_runAll (Winds.refl _) _ _
  obtain ⟨us, bs, m, frame⟩ := offState_frame b s
  exact ⟨by rw [winds.grants, frame], by rw [winds.filtered, frame], by rw [winds.spt, frame]⟩

end Off

/-- Settles O43, by the cases of a failed frame and what the consequences of bus-off keep and reach. -/
theorem transmitErrorsLeadToBusOff : Obligations.TransmitErrorsLeadToBusOff := by
  intro b race s u ht bus
  have fails : exec (.frameFailed b race) s = .next (frameFailed b race u) := running_at ht
  have recovers : exec (.recoveryTimerExpiry b) s = .next (recoveryExpires b u) := running_at ht
  rw [fails, recovers]
  refine ⟨fun hw => ?_, fun hw hx he => ?_, fun hw hx he => ?_, fun hw ha he => ?_, fun hw ha he => ?_, fun hr => ?_,
    fun hr hs => ?_⟩
  · rw [frameFailed_idle hw]
  · rw [frameFailed_again hw hx he]
  · rw [frameFailed_dropped hw hx he]
  · rw [frameFailed_held hw ha he]
  · refine ⟨busOff b race u, by rw [frameFailed_off hw ha he], busAt_busOff race, fun a h => busAt_busOff_other h race,
      busFault_busOff b race u, busOff_nothingOnBus b race u, fun w h => unitAt_busOff_other h race,
      fun w h => ?_, busOff_tables b race u⟩
    obtain ⟨out, wait, awaited⟩ := busLeftUnit_entries (unitAt w u)
    rw [unitAt_busOff_on h]
    exact ⟨out, wait, awaited, busLeftUnit_reasm _, busLeftUnit_claimed⟩
  · rw [recoveryExpires_stopped hr]
  · rw [recoveryExpires_off hr hs]

end Sys2Proof.Machine
end

section
/-! Replies of units (R117, R123): the unit a frame belongs to, and what a segment does to its reassembly. -/

namespace Sys2Proof.Machine

/-! ### The unit of a reply identifier -/

/-- Unit `w` is DEFINED on bus `b` with reply identifier `id`. -/
def RepliesWith (b : BusId) (id : CanId) (s : State) (w : UnitId) : Prop :=
  ∃ d, (unitAt w s).defn = some d ∧ d.bus = b ∧ d.repId = id

section Owner
variable {b : BusId} {id : CanId} {s : State}

theorem repliesWith_iff (w : UnitId) :
    ((unitAt w s).defn.any fun d => d.bus == b && d.repId == id) = true ↔ RepliesWith b id s w := by
  unfold RepliesWith
  simp only [Option.any_eq_true, Bool.and_eq_true, beq_iff_eq]

theorem unitOfReplyId_eq : unitOfReplyId b id s =
    allUnits.find? fun w => (unitAt w s).defn.any fun d => d.bus == b && d.repId == id := by
  unfold unitOfReplyId
  congr 1
  funext w
  cases (unitAt w s).defn with
  | none => rfl
  | some d => rfl

theorem unitOfReplyId_none (h : ∀ w, ¬ RepliesWith b id s w) : unitOfReplyId b id s = none := by
  rw [unitOfReplyId_eq, List.find?_eq_none]
  exact fun w _ => mt (repliesWith_iff w).mp (h w)

theorem unitOfReplyId_lowest {v : UnitId} (h : RepliesWith b id s v) (hlow : ∀ w, w < v → ¬ RepliesWith b id s w) :
    unitOfReplyId b id s = some v := by
  rw [unitOfReplyId_eq]
  unfold allUnits
  rw [← Fin.find?_eq_find?_finRange, Fin.find?_eq_some_iff]
  exact ⟨(repliesWith_iff v).mpr h, fun w hw => Bool.eq_false_iff.mpr (mt (repliesWith_iff w).mp (hlow w hw))⟩

end Owner

/-! ### A segment joins a reassembly (R123) -/

section Joining
variable {length next frameLength : Nat} {bytes data : List Byte} {last : Bool}

/-- The bytes of a reassembly with a segment's data; the pad bytes of a last frame are left out (log 14). -/
def joined (length : Nat) (bytes : List Byte) (last : Bool) (frameLength : Nat) (data : List Byte) : List Byte :=
  bytes ++ (if last = true ∧ frameLength = canFdLength (2 + (length - bytes.length)) then data.take (length - bytes.length)
    else data)

theorem addUnitData_eq : addUnitData length bytes next last frameLength data =
    if length < (joined length bytes last frameLength data).length ∨ 248 < (joined length bytes last frameLength data).length then
      ⟨none, none⟩
    else if last = true then
      if (joined length bytes last frameLength data).length = length then
        ⟨none, some (joined length bytes last frameLength data)⟩
      else ⟨none, none⟩
    else ⟨some { length := length, bytes := joined length bytes last frameLength data, next := next }, none⟩ := by
  have pads : (last && frameLength == canFdLength (2 + (length - bytes.length))) = true ↔
      last = true ∧ frameLength = canFdLength (2 + (length - bytes.length)) := by
    rw [Bool.and_eq_true, beq_iff_eq]
  unfold addUnitData joined
  simp only [pads]
  rfl

theorem addUnitData_discards (h : length < (joined length bytes last frameLength data).length ∨
    248 < (joined length bytes last frameLength data).length ∨
    (last = true ∧ (joined length bytes last frameLength data).length ≠ length)) :
    addUnitData length bytes next last frameLength data = ⟨none, none⟩ := by
  rw [addUnitData_eq]
  split
  · rfl
  · rename_i fits
    rcases h with h | h | ⟨hl, hn⟩
    · exact absurd (Or.inl h) fits
    · exact absurd (Or.inr h) fits
    · rw [if_pos hl, if_neg hn]

theorem addUnitData_continues (hle : (joined length bytes last frameLength data).length ≤ length)
    (hmax : (joined length bytes last frameLength data).length ≤ 248) (hl : last = false) :
    addUnitData length bytes next last frameLength data =
      ⟨some { length := length, bytes := joined length bytes last frameLength data, next := next }, none⟩ := by
  rw [addUnitData_eq, if_neg (not_or.mpr ⟨hle.not_gt, hmax.not_gt⟩), if_neg (by rw [hl]; exact Bool.false_ne_true)]

theorem addUnitData_completes (heq : (joined length bytes last frameLength data).length = length)
    (hmax : (joined length bytes last frameLength data).length ≤ 248) (hl : last = true) :
    addUnitData length bytes next last frameLength data = ⟨none, some (joined length bytes last frameLength data)⟩ := by
  rw [addUnitData_eq, if_neg (not_or.mpr ⟨heq.le.not_gt, hmax.not_gt⟩), if_pos hl, if_pos heq]

/-- What a segment joins: length, bytes so far and the index expected next; nothing where it is out of turn (log 32). -/
def joinedBy (r : Option UnitReasm) (g : Segment) : Option (Nat × List Byte × Nat) :=
  if g.first then some (g.length, [], 1)
  else match r with
    | some x => if x.next = g.index then some (x.length, x.bytes, g.index + 1) else none
    | none => none

theorem takeUnitSegment_discards {r : Option UnitReasm} {g : Segment} (h : joinedBy r g = none) :
    takeUnitSegment r g frameLength = ⟨none, none⟩ := by
  unfold joinedBy at h
  unfold takeUnitSegment
  split at h
  · cases h
  · rename_i later
    rw [if_neg later]
    cases r with
    | none => rfl
    | some x =>
      dsimp only at h ⊢
      split at h
      · cases h
      · rename_i turn
        exact if_neg (Ne.symm turn)

theorem takeUnitSegment_joins {r : Option UnitReasm} {g : Segment} (h : joinedBy r g = some (length, bytes, next)) :
    takeUnitSegment r g frameLength = addUnitData length bytes next g.last frameLength g.data := by
  unfold joinedBy at h
  unfold takeUnitSegment
  split at h
  · rename_i first
    cases h
    exact if_pos first
  · rename_i later
    rw [if_neg later]
    cases r with
    | none => cases h
    | some x =>
      dsimp only at h ⊢
      split at h
      · rename_i turn
        cases h
        rw [if_pos turn.symm, turn]
      · cases h

end Joining

/-! ### A frame on a unit bus (R117) -/

section Arriving
variable {b : BusId} {id : CanId} {frame : List Byte} {s : State} {v : UnitId} {g : Segment}

/-- The segment of a frame with header bytes `h` and `l` (11.1). -/
def segmentOf (h l : Byte) (data : List Byte) : Segment where
  first := h.getLsbD 7
  last := h.getLsbD 6
  index := h.toNat / 16 % 4
  chan := Fin.ofNat 4 (h.toNat / 4)
  buf := bufOfBit (h.getLsbD 1)
  length := l.toNat
  data := data.take 62

theorem parseSegment_bytes (h l : Byte) (data : List Byte) : parseSegment (h :: l :: data) = some (segmentOf h l data) := rfl

theorem parseSegment_short (h : frame.length < 2) : parseSegment frame = none := by
  match frame, h with
  | [], _ => rfl
  | [_], _ => rfl

/-- A frame that is no unit's, carries no segment or comes while the bus is not ACTIVE changes nothing. -/
theorem unitFrame_ignored (h : (busAt b s).state ≠ .active ∨ unitOfReplyId b id s = none ∨ parseSegment frame = none) :
    unitFrame b id frame s = s := by
  unfold unitFrame
  split
  · rename_i active
    split
    · rename_i owner segment
      rcases h with h | h | h
      · exact absurd active h
      · rw [h] at owner
        cases owner
      · rw [h] at segment
        cases segment
    · rfl
  · rfl

/-- A segment after which no body is complete only moves the reassembly. -/
theorem unitFrame_incomplete {r : Option UnitReasm} (ha : (busAt b s).state = .active) (hv : unitOfReplyId b id s = some v)
    (hg : parseSegment frame = some g) (hr : takeUnitSegment (unitAt v s).reasm g frame.length = ⟨r, none⟩) :
    unitFrame b id frame s = setUnit v { unitAt v s with reasm := r } s := by
  unfold unitFrame
  rw [if_pos ha, hv, hg]
  dsimp only
  rw [hr]

/-- A segment that completes a body hands the body to matching (R124). -/
theorem unitFrame_complete {body : List Byte} (ha : (busAt b s).state = .active) (hv : unitOfReplyId b id s = some v)
    (hg : parseSegment frame = some g) (hr : takeUnitSegment (unitAt v s).reasm g frame.length = ⟨none, some body⟩) :
    unitFrame b id frame s = takeReply b v body (setUnit v { unitAt v s with reasm := none } s) := by
  unfold unitFrame
  rw [if_pos ha, hv, hg]
  dsimp only
  rw [hr]

end Arriving

/-- Settles O44, by the unit of the identifier and the cases of a segment's joining. -/
theorem unitRepliesAreReassembled : Obligations.UnitRepliesAreReassembled := by
  intro b id frame s u ht named
  have arrives : exec (.unitReplySegment b id frame) s = .next (unitFrame b id frame u) := running_at ht
  rw [arrives]
  refine ⟨fun h => ?_, fun v h l data ha hv hlow hf => ?_⟩
  · rw [unitFrame_ignored (h.imp_right (Or.imp unitOfReplyId_none parseSegment_short))]
  · intro first last index un left held
    have owner : unitOfReplyId b id u = some v := unitOfReplyId_lowest hv hlow
    have segment : parseSegment frame = some (segmentOf h l data) := hf ▸ parseSegment_bytes h l data
    have sameTurn : joinedBy un.reasm (segmentOf h l data) = held := rfl
    refine ⟨fun hn => ?_, fun length bytes next hh => ?_⟩
    · rw [unitFrame_incomplete ha owner segment (takeUnitSegment_discards (sameTurn.trans hn))]
    · intro rest carried added
      have joins := takeUnitSegment_joins (frameLength := frame.length) (sameTurn.trans hh)
      refine ⟨fun hd => ?_, fun hle hmax hl => ?_, fun heq hmax hl => ?_⟩
      · rw [unitFrame_incomplete ha owner segment (joins.trans (addUnitData_discards hd))]
      · rw [unitFrame_incomplete ha owner segment (joins.trans (addUnitData_continues hle hmax hl))]
        rfl
      · rw [unitFrame_complete ha owner segment (joins.trans (addUnitData_completes heq hmax hl))]
        rfl

end Sys2Proof.Machine
end

section
/-! Matching of unit replies (R124 to R127): which reply the awaited message takes, the WAIT, and the reply timer. -/

namespace Sys2Proof.Machine

/-! ### R124's table -/

/-- A POSITIVE reply's payload fits the awaited message. -/
def PayloadFits (m : UnitMsg) (payload : List Byte) : Prop :=
  match m with
  | .memoryFetch _ n => payload.length = n
  | .itemFetch _ => payload.length ≤ 240
  | .faultList => payload.length ≤ 240
  | .routineRun _ _ => payload.length ≤ 240
  | .presence => False
  | _ => True

/-- The data of a POSITIVE reply that fits: the payload where the message asks for data, else none. -/
def fittingData (m : UnitMsg) (payload : List Byte) : List Byte :=
  match m with
  | .memoryFetch _ _ => payload
  | .itemFetch _ => payload
  | .faultList => payload
  | .routineRun _ _ => payload
  | _ => []

theorem positiveData_fits {m : UnitMsg} {payload : List Byte} (h : PayloadFits m payload) :
    positiveData m payload = some (fittingData m payload) := by
  cases m with
  | itemFetch | faultList | routineRun | memoryFetch => exact if_pos h
  | faultErase | memoryStore | modeEnter | modeBase => rfl
  | presence => exact h.elim

theorem positiveData_unfit {m : UnitMsg} {payload : List Byte} (h : ¬ PayloadFits m payload) :
    positiveData m payload = none := by
  cases m with
  | itemFetch | faultList | routineRun | memoryFetch => exact if_neg h
  | faultErase | memoryStore | modeEnter | modeBase => exact absurd trivial h
  | presence => rfl

/-- The reply of a kind and payload that fits the awaited message `m` (R124). -/
inductive ReplyFits (m : UnitMsg) : Byte → List Byte → UnitReply → Prop
  | positive {payload : List Byte} : PayloadFits m payload → ReplyFits m 1 payload (.positive (fittingData m payload))
  | negative (reason : Byte) : ReplyFits m 2 [reason] (.negative reason)
  | wait : ReplyFits m 3 [] .wait

theorem fitReply_fits {m : UnitMsg} {kind : Byte} {payload : List Byte} {reply : UnitReply}
    (h : ReplyFits m kind payload reply) : fitReply m kind payload = some reply := by
  cases h with
  | positive fits => exact congrArg (Option.map UnitReply.positive) (positiveData_fits fits)
  | negative reason => rfl
  | wait => rfl

theorem fitReply_unfit {m : UnitMsg} {kind : Byte} {payload : List Byte} (h : (kind = 1 ∧ ¬ PayloadFits m payload) ∨
    (kind = 2 ∧ payload.length ≠ 1) ∨ (kind = 3 ∧ payload ≠ []) ∨ (kind ≠ 1 ∧ kind ≠ 2 ∧ kind ≠ 3)) :
    fitReply m kind payload = none := by
  rcases h with ⟨rfl, unfit⟩ | ⟨rfl, long⟩ | ⟨rfl, long⟩ | ⟨h1, h2, h3⟩
  · exact congrArg (Option.map UnitReply.positive) (positiveData_unfit unfit)
  · match payload, long with
    | [], _ => rfl
    | [_], long => exact absurd rfl long
    | _ :: _ :: _, _ => rfl
  · exact if_neg long
  · unfold fitReply
    rw [if_neg h1, if_neg h2, if_neg h3]

/-- Tag and length byte of a reply agree with the awaited reply and the payload (R124, R166). -/
def ReplyAgrees (aw : Awaited) (tag len : Byte) (payload : List Byte) : Prop :=
  tag.toNat % 16 = aw.tag.toNat ∧ len.toNat = payload.length

section Matching
variable {b : BusId} {v : UnitId} {s : State} {aw : Awaited} {kind tag len flags : Byte} {payload body : List Byte}

theorem matchReply_short (h : body.length < 4) : matchReply aw body = none := by
  match body, h with
  | [], _ => rfl
  | [_], _ => rfl
  | [_, _], _ => rfl
  | [_, _, _], _ => rfl

theorem matchReply_agrees (h : ReplyAgrees aw tag len payload) :
    matchReply aw (kind :: tag :: len :: flags :: payload) = fitReply aw.msg kind payload := if_pos h

theorem matchReply_disagrees (h : ¬ ReplyAgrees aw tag len payload) :
    matchReply aw (kind :: tag :: len :: flags :: payload) = none := if_neg h

/-! ### A complete reply -/

theorem takeReply_unawaited (h : (unitAt v s).awaited = none) : takeReply b v body s = strayReply b v s := by
  unfold takeReply
  rw [h]

theorem takeReply_unmatched (ha : (unitAt v s).awaited = some aw) (h : matchReply aw body = none) :
    takeReply b v body s = strayReply b v s := by
  unfold takeReply
  rw [ha]
  dsimp only
  rw [h]

theorem takeReply_short (h : body.length < 4) : takeReply b v body s = strayReply b v s := by
  cases ha : (unitAt v s).awaited with
  | none => exact takeReply_unawaited ha
  | some aw => exact takeReply_unmatched ha (matchReply_short h)

theorem takeReply_positive {data : List Byte} (ha : (unitAt v s).awaited = some aw)
    (h : matchReply aw body = some (.positive data)) : takeReply b v body s = completeOut v (.positive data) s := by
  unfold takeReply
  rw [ha]
  dsimp only
  rw [h]

theorem takeReply_negative {reason : Byte} (ha : (unitAt v s).awaited = some aw)
    (h : matchReply aw body = some (.negative reason)) : takeReply b v body s = completeOut v (.negative reason) s := by
  unfold takeReply
  rw [ha]
  dsimp only
  rw [h]

theorem takeReply_wait (ha : (unitAt v s).awaited = some aw) (h : matchReply aw body = some .wait) :
    takeReply b v body s = takeWait b v aw s := by
  unfold takeReply
  rw [ha]
  dsimp only
  rw [h]

/-- R125: one of the first eight WAITs restarts the reply timer. -/
theorem takeWait_restarts (h : aw.waits < 8) : takeWait b v aw s = entryReport .waitNotices (outPort v s) (some b) v
    (setUnit v { unitAt v s with awaited := some { aw with waits := aw.waits + 1, timer := 5000 } } s) := if_pos h

/-- R125: the ninth WAIT completes the entry. -/
theorem takeWait_ninth (h : 8 ≤ aw.waits) : takeWait b v aw s = entryReport .timeouts (outPort v s) (some b) v
    (entryReport .waitNotices (outPort v s) (some b) v (completeOut v .timeout s)) := if_neg h.not_gt

/-! ### The reply timer (R126) -/

theorem replyTimerExpires_stopped (h : (unitAt v s).awaited = none) : replyTimerExpires v s = s := by
  unfold replyTimerExpires
  rw [h]

theorem replyTimerExpires_running (h : (unitAt v s).awaited ≠ none) : replyTimerExpires v s =
    entryReport .timeouts (outPort v s) (unitBus v s) v (completeOut v .timeout s) := by
  obtain ⟨aw, ha⟩ := Option.ne_none_iff_exists'.mp h
  unfold replyTimerExpires
  rw [ha]

end Matching

/-- Settles O45, by R124's table and the cases of a matched reply. -/
theorem matchedRepliesCompleteEntries : Obligations.MatchedRepliesCompleteEntries := by
  refine ⟨fun b v body w => ?_, fun v s u ht => ?_⟩
  · intro stray port told
    refine ⟨fun h => h.elim takeReply_unawaited takeReply_short, fun aw kind tag len flags payload ha hb => ?_⟩
    subst hb
    intro agrees fits data
    have matched : ∀ {reply}, agrees → ReplyFits aw.msg kind payload reply →
        matchReply aw (kind :: tag :: len :: flags :: payload) = some reply := fun hg hr =>
      (matchReply_agrees hg).trans (fitReply_fits hr)
    refine ⟨fun hg hk hf => ?_, fun reason hg hk hp => ?_, fun hg hk hp => ?_, fun h => ?_⟩
    · subst hk
      exact takeReply_positive ha (matched hg (.positive hf))
    · subst hk hp
      exact takeReply_negative ha (matched hg (.negative reason))
    · subst hk hp
      rw [takeReply_wait ha (matched hg .wait)]
      exact ⟨takeWait_restarts, takeWait_ninth⟩
    · by_cases hg : agrees
      · refine takeReply_unmatched ha ((matchReply_agrees hg).trans (fitReply_unfit ?_))
        exact h.resolve_left (not_not.mpr hg)
      · exact takeReply_unmatched ha (matchReply_disagrees hg)
  · have expires : exec (.replyTimerExpiry v) s = .next (replyTimerExpires v u) := running_at ht
    rw [expires]
    refine ⟨fun h => ?_, fun h => ?_⟩
    · rw [replyTimerExpires_stopped h]
    · rw [replyTimerExpires_running h]
      rfl

end Sys2Proof.Machine
end

section
/-! The output ALERT (R146, R168), the freeze and its commands (R143, R144). -/

namespace Sys2Proof.Machine

/-! ### ALERT -/

/-- Some item of the monitor status is set: a flag, an escalated grant, or one of the three single items (R133). -/
theorem statusSet_iff (m : Monitor) : statusSet m = true ↔ (∃ i : Fin 8, m.flags.get i = true) ∨ m.escalated ≠ 0 ∨
    m.trailHigh = true ∨ m.trailWrapped = true ∨ m.busFault = true := by
  unfold statusSet
  simp only [Bool.or_eq_true, List.any_eq_true, List.mem_finRange, true_and, bne_iff_ne, or_assoc]

theorem alert_inReset {s : State} (h : s.inReset = true) : s.alert = false := by
  unfold State.alert
  rw [h]
  rfl

theorem alert_running {s : State} (h : s.inReset = false) :
    s.alert = true ↔ s.monitor.freeze ≠ none ∨ statusSet s.monitor = true := by
  unfold State.alert
  rw [h, Bool.not_false, Bool.true_and, Bool.or_eq_true, Option.isSome_iff_ne_none]

/-- Settles O16: R146's two reasons, and a monitor that has neither after power-on. -/
theorem alertFollowsFreezeAndStatus : Obligations.AlertFollowsFreezeAndStatus := by
  refine ⟨fun s h => ?_, fun s h => alert_inReset h, fun raw => ?_⟩
  · rw [alert_running h, statusSet_iff]
  · have quiet : statusSet Monitor.initial = false := by decide
    exact quiet

/-! ### What a freeze trigger leaves of the monitor (R143) -/

section Trigger

variable (cause : FreezeCause) (s : State)

/-- A trigger writes the monitor and the trail only. -/
theorem freezeTrigger_frame : freezeTrigger cause s =
    { s with monitor := (freezeTrigger cause s).monitor, trail := (freezeTrigger cause s).trail } := by
  unfold freezeTrigger
  split <;> rfl

@[simp] theorem freezeTrigger_counters : (freezeTrigger cause s).monitor.counters = s.monitor.counters := by
  unfold freezeTrigger
  split <;> rfl

@[simp] theorem freezeTrigger_flags : (freezeTrigger cause s).monitor.flags = s.monitor.flags := by
  unfold freezeTrigger
  split <;> rfl

@[simp] theorem freezeTrigger_setups : (freezeTrigger cause s).monitor.setups = s.monitor.setups := by
  unfold freezeTrigger
  split <;> rfl

@[simp] theorem freezeTrigger_edges : (freezeTrigger cause s).monitor.edges = s.monitor.edges := by
  unfold freezeTrigger
  split <;> rfl

@[simp] theorem freezeTrigger_escalated : (freezeTrigger cause s).monitor.escalated = s.monitor.escalated := by
  unfold freezeTrigger
  split <;> rfl

@[simp] theorem freezeTrigger_sampleTimer :
    (freezeTrigger cause s).monitor.sampleTimer = s.monitor.sampleTimer := by
  unfold freezeTrigger
  split <;> rfl

end Trigger

/-! ### FREEZE and UNFREEZE -/

/-- A row of a running part answers what its operation makes of the state it takes. -/
theorem running_next {f : State → State} {s u w : State} (ht : TakenAt s u) (h : f u = w) : running f s = .next w :=
  h ▸ running_at ht

section Commands

variable {s : State} (env : Envelope)

theorem freezeCommand_off (h : s.monitor.freeze = none) : freezeCommand env s = answerCommand env cmdFreeze .done []
    (writeRecord none none none none (.freeze .command)
      { s with monitor := { s.monitor with freeze := some .command } }) := by
  unfold freezeCommand
  rw [freezeTrigger_off h]

theorem freezeCommand_on {cause : FreezeCause} (h : s.monitor.freeze = some cause) :
    freezeCommand env s = answerCommand env cmdFreeze .done [] s := by
  unfold freezeCommand
  rw [freezeTrigger_on (by rw [h]; exact Option.some_ne_none cause)]

theorem unfreezeCommand_off (h : s.monitor.freeze = none) :
    unfreezeCommand env s = answerCommand env cmdUnfreeze .wrongState [] s := by
  unfold unfreezeCommand
  rw [h]

theorem unfreezeCommand_on {cause : FreezeCause} (h : s.monitor.freeze = some cause) :
    unfreezeCommand env s = answerCommand env cmdUnfreeze .done []
      (writeRecord none none none none .unfreeze { s with monitor := { s.monitor with freeze := none } }) := by
  unfold unfreezeCommand
  rw [h]

end Commands

/-- Settles O15, by the state of the freeze. -/
theorem freezeAndUnfreeze : Obligations.FreezeAndUnfreeze := fun env _ _ ht =>
  ⟨fun off => running_next ht (freezeCommand_off env off),
    fun _ on => ⟨running_next ht (freezeCommand_on env on), running_next ht (unfreezeCommand_on env on)⟩,
    fun off => running_next ht (unfreezeCommand_off env off)⟩

end Sys2Proof.Machine
end

section
/-! Counting (R136, R139): what adding to the counters does to counters, flags, freeze and trail, and which counters an
occurrence passes. -/

namespace Sys2Proof.Machine

/-! ### Adding to the counters (R139) -/

/-- Counter `i`'s overflow flag is newly set when `amounts` are added. -/
def newlySet (amounts : Fin 8 → Nat) (m : Monitor) (i : Fin 8) : Bool := wraps m i (amounts i) && !m.flags.get i

/-- A counter that has escalate set is among the newly flagged ones. -/
def Escalating (amounts : Fin 8 → Nat) (m : Monitor) : Prop :=
  ∃ i, newlySet amounts m i = true ∧ (m.setups.get i).escalate = true

/-- The counters advanced and the flags of wraps set, before any trigger. -/
def countedState (amounts : Fin 8 → Nat) (s : State) : State :=
  { s with monitor := { s.monitor with
    counters := Vector.ofFn fun i => s.monitor.counters.get i + BitVec.ofNat 32 (amounts i)
    flags := Vector.ofFn fun i => s.monitor.flags.get i || wraps s.monitor i (amounts i) } }

theorem countingStopped_iff (m : Monitor) :
    countingStopped m = true ↔ m.freeze ≠ none ∧ m.countWhileFrozen = false := by
  unfold countingStopped
  rw [Bool.and_eq_true, Bool.not_eq_true', Option.isSome_iff_ne_none]

section Adding

variable (amounts : Fin 8 → Nat) (s : State)

theorem addCounts_eq : addCounts amounts s =
    if (List.finRange 8).any fun i => newlySet amounts s.monitor i && (s.monitor.setups.get i).escalate then
      freezeTrigger (.counter (packBits 8 (newlySet amounts s.monitor))) (countedState amounts s)
    else countedState amounts s := rfl

theorem escalating_iff (m : Monitor) :
    ((List.finRange 8).any fun i => newlySet amounts m i && (m.setups.get i).escalate) = true ↔
      Escalating amounts m := by
  simp only [List.any_eq_true, List.mem_finRange, true_and, Bool.and_eq_true, Escalating]

/-- Newly set flags that escalate are one COUNTER trigger that names them all (R139, log 18). -/
theorem addCounts_escalating (h : Escalating amounts s.monitor) : addCounts amounts s =
    freezeTrigger (.counter (packBits 8 (newlySet amounts s.monitor))) (countedState amounts s) := by
  rw [addCounts_eq, if_pos ((escalating_iff _ _).mpr h)]

theorem addCounts_quiet (h : ¬ Escalating amounts s.monitor) : addCounts amounts s = countedState amounts s := by
  rw [addCounts_eq, if_neg (mt (escalating_iff _ _).mp h)]

/-- A count leaves the counted state, with or without a freeze trigger after it. -/
theorem addCounts_cases : addCounts amounts s = countedState amounts s ∨
    ∃ cause, addCounts amounts s = freezeTrigger cause (countedState amounts s) := by
  by_cases h : Escalating amounts s.monitor
  · exact .inr ⟨_, addCounts_escalating amounts s h⟩
  · exact .inl (addCounts_quiet amounts s h)

/-- Each counter advances by its amount, modulo 2 to the 32nd. -/
theorem addCounts_counter (i : Fin 8) :
    (addCounts amounts s).monitor.counters.get i = s.monitor.counters.get i + BitVec.ofNat 32 (amounts i) := by
  obtain h | ⟨cause, h⟩ := addCounts_cases amounts s <;> simp [h, countedState, Vector.get_eq_getElem]

/-- A wrap sets the counter's flag; no flag is cleared. -/
theorem addCounts_flag (i : Fin 8) :
    (addCounts amounts s).monitor.flags.get i = (s.monitor.flags.get i || wraps s.monitor i (amounts i)) := by
  obtain h | ⟨cause, h⟩ := addCounts_cases amounts s <;> simp [h, countedState, Vector.get_eq_getElem]

@[simp] theorem addCounts_setups : (addCounts amounts s).monitor.setups = s.monitor.setups := by
  obtain h | ⟨cause, h⟩ := addCounts_cases amounts s <;> simp [h, countedState]

@[simp] theorem addCounts_edges : (addCounts amounts s).monitor.edges = s.monitor.edges := by
  obtain h | ⟨cause, h⟩ := addCounts_cases amounts s <;> simp [h, countedState]

@[simp] theorem addCounts_escalated : (addCounts amounts s).monitor.escalated = s.monitor.escalated := by
  obtain h | ⟨cause, h⟩ := addCounts_cases amounts s <;> simp [h, countedState]

@[simp] theorem addCounts_sampleTimer : (addCounts amounts s).monitor.sampleTimer = s.monitor.sampleTimer := by
  obtain h | ⟨cause, h⟩ := addCounts_cases amounts s <;> simp [h, countedState]

/-- Counting writes the monitor and, by a freeze, the trail. -/
theorem addCounts_frame : addCounts amounts s =
    { s with monitor := (addCounts amounts s).monitor, trail := (addCounts amounts s).trail } := by
  obtain h | ⟨cause, h⟩ := addCounts_cases amounts s
  · rw [h]
    rfl
  · rw [h]
    exact freezeTrigger_frame cause (countedState amounts s)

/-- An escalating count turns an OFF freeze ON and writes its FREEZE record. -/
theorem addCounts_freezes (off : s.monitor.freeze = none) (h : Escalating amounts s.monitor) :
    (addCounts amounts s).monitor.freeze = some (.counter (packBits 8 (newlySet amounts s.monitor))) ∧
    (addCounts amounts s).trail = appendRecord s.trail none none none none
      (.freeze (.counter (packBits 8 (newlySet amounts s.monitor)))) := by
  rw [addCounts_escalating amounts s h, freezeTrigger_off (s := countedState amounts s) off]
  exact ⟨rfl, rfl⟩

/-- A count that does not escalate, or finds the freeze ON, leaves freeze and trail. -/
theorem addCounts_keeps_freeze (h : ¬ (s.monitor.freeze = none ∧ Escalating amounts s.monitor)) :
    (addCounts amounts s).monitor.freeze = s.monitor.freeze ∧ (addCounts amounts s).trail = s.trail := by
  by_cases he : Escalating amounts s.monitor
  · have on : s.monitor.freeze ≠ none := fun off => h ⟨off, he⟩
    rw [addCounts_escalating amounts s he, freezeTrigger_on (s := countedState amounts s) on]
    exact ⟨rfl, rfl⟩
  · rw [addCounts_quiet amounts s he]
    exact ⟨rfl, rfl⟩

end Adding

/-! ### An occurrence (R136) -/

/-- The setup counts the occurrence: it is enabled, of its event, and its filters are passed. -/
def countsReport (c : Setup) (r : Report) : Bool := c.enable && c.event == r.event && passesFilters c r

/-- The amounts an occurrence adds. -/
def reportAmounts (r : Report) (m : Monitor) (i : Fin 8) : Nat := if countsReport (m.setups.get i) r then 1 else 0

theorem report_stopped {s : State} (h : countingStopped s.monitor = true) (r : Report) : report r s = s := if_pos h

theorem report_counts {s : State} (h : ¬ countingStopped s.monitor = true) (r : Report) :
    report r s = addCounts (reportAmounts r s.monitor) s := if_neg h

/-- A single bus passes its own filter and BOTH. -/
theorem busPasses_eq (f : BusFilter) (b : BusId) : busPasses f b = match b with
    | .ub0 => decide (f = .ub0 ∨ f = .both)
    | .ub1 => decide (f = .ub1 ∨ f = .both) := by
  cases f <;> cases b <;> rfl

/-- Adding 1 wraps a counter that stands at the top. -/
theorem wraps_one (m : Monitor) (i : Fin 8) : wraps m i 1 = decide (m.counters.get i = 0xFFFFFFFF#32) := by
  have bound := (m.counters.get i).isLt
  unfold wraps
  rw [decide_eq_decide, ← BitVec.toNat_inj, show (0xFFFFFFFF#32).toNat = 4294967295 from rfl]
  omega

/-- Adding nothing wraps no counter. -/
theorem wraps_zero (m : Monitor) (i : Fin 8) : wraps m i 0 = false := by
  have bound := (m.counters.get i).isLt
  unfold wraps
  rw [decide_eq_false_iff_not]
  omega

/-- Only a counter that counts the occurrence and stands at the top wraps by it. -/
theorem wraps_report (r : Report) (m : Monitor) (i : Fin 8) : wraps m i (reportAmounts r m i) =
    (countsReport (m.setups.get i) r && decide (m.counters.get i = 0xFFFFFFFF#32)) := by
  unfold reportAmounts
  cases countsReport (m.setups.get i) r
  · exact wraps_zero m i
  · exact wraps_one m i

/-- Settles O14: an occurrence is a count of 1 at each counter whose setup counts it. -/
theorem occurrenceAdvancesPassingCounters : Obligations.OccurrenceAdvancesPassingCounters := by
  intro r s passes newly
  have passing : passes = fun i => countsReport (s.monitor.setups.get i) r := by
    funext i
    obtain ⟨event, port, bus, unit⟩ := r
    simp only [passes, countsReport, passesFilters, busPasses_eq, unitPasses, beq_eq_decide, Bool.and_assoc]
    rcases bus with _ | _ | _ <;> rfl
  have new : newly = newlySet (reportAmounts r s.monitor) s.monitor := by
    funext i
    simp only [newly, newlySet, wraps_report, passing]
  clear_value passes newly
  subst passing new
  refine ⟨fun on still => report_stopped ?_ r, fun counting => ?_, ?_⟩
  · exact (countingStopped_iff _).mpr ⟨Option.isSome_iff_ne_none.mp on, still⟩
  · have running : ¬ countingStopped s.monitor = true := fun h => by
      obtain ⟨on, still⟩ := (countingStopped_iff _).mp h
      rcases counting with off | moving
      · exact on off
      · rw [moving] at still
        cases still
    rw [report_counts running r]
    refine ⟨fun i => ?_, fun i => ?_, addCounts_setups _ s, addCounts_edges _ s, addCounts_escalated _ s, ?_⟩
    · rw [addCounts_counter, reportAmounts]
      split <;> simp
    · rw [addCounts_flag, newlySet]
      cases s.monitor.flags.get i <;> simp
    · split
      · next h =>
        obtain ⟨freeze, trail⟩ := addCounts_freezes _ s h.1 h.2
        exact ⟨_, packBits_lsb _, freeze, trail⟩
      · next h => exact addCounts_keeps_freeze _ s h
  · by_cases h : countingStopped s.monitor = true
    · exact ⟨s.monitor, s.trail, report_stopped h r⟩
    · rw [report_counts h r]
      exact ⟨_, _, addCounts_frame _ s⟩

end Sys2Proof.Machine
end

section
/-! The sample (R137, R138): the levels, the amount and the edge memory of each counter, and the count they make. -/

namespace Sys2Proof.Machine

/-! ### The level of a level event (R137) -/

/-- A bus, where there is one, passes its own filter and BOTH; a missing bus passes BOTH alone. -/
theorem busPassesOpt_eq (f : BusFilter) (b : Option BusId) : busPassesOpt f b = match f with
    | .both => true
    | .ub0 => b == some .ub0
    | .ub1 => b == some .ub1 := by
  rcases b with _ | _ | _ <;> cases f <;> rfl

theorem busPasses_some (f : BusFilter) (b : BusId) : busPasses f b = busPassesOpt f (some b) := rfl

/-- WAITING counts the entries of requests and of stream blocks whose channel's port passes. -/
theorem waitingCounts_eq (c : Setup) (e : Entry) : waitingCounts c e = match e.source with
    | .channel ch => c.ports.get (chanPort ch)
    | .stream _ ch => c.ports.get (chanPort ch)
    | _ => false := by
  unfold waitingCounts isChannelRequest chanInFilter
  cases e.source <;> rfl

/-- The model's level of each event is the level the manual names. -/
theorem levelOf_eq_levelHeld (c : Setup) (s : State) : levelOf c s = levelHeld c s := by
  have waiting : waitingCounts c = fun e => match e.source with
      | .channel ch => c.ports.get (chanPort ch)
      | .stream _ ch => c.ports.get (chanPort ch)
      | _ => false := funext (waitingCounts_eq c)
  unfold levelOf levelHeld
  cases c.event with
  | channelsBusy => rfl
  | waiting =>
    simp only [waitingLevel, unitWaiting, countWhere, unitInFilter, unitPasses, busPassesOpt_eq, waiting] <;> rfl
  | busQueue =>
    simp only [busQueueLevel, filteredDepth, busPasses_some, busPassesOpt_eq] <;> rfl
  | mapQueue =>
    simp only [mapQueueLevel, countWhere, unitInFilter, unitPasses, busPassesOpt_eq] <;> rfl
  | _ => rfl

theorem sampledLevel_eq (i : Fin 8) (s : State) : sampledLevel i s =
    if (s.monitor.setups.get i).enable then levelHeld (s.monitor.setups.get i) s else none := by
  simp only [sampledLevel, levelOf_eq_levelHeld]

/-! ### The sample itself (R138) -/

/-- The amount a sample adds: the level itself at threshold 0, else 1 by the test and the edge memory. -/
theorem sampleAmount_eq (c : Setup) (memory : Bool) (level : Nat) : sampleAmount c memory level =
    if c.threshold = 0 then level
    else if sampleTest c level = true ∧ (c.edge = false ∨ memory = false) then 1 else 0 := by
  unfold sampleAmount
  simp only [Bool.and_eq_true, Bool.or_eq_true, Bool.not_eq_true']

/-- The sample timer restarted and the edge memories taken, before anything is added. -/
def sampledState (s : State) : State :=
  { s with monitor := { s.monitor with
    sampleTimer := periodMs s.monitor
    edges := Vector.ofFn fun i => memoryOf i s } }

section Sample

variable (s : State)

theorem sampleExpires_stopped (h : countingStopped s.monitor = true) : sampleExpires s = sampledState s := if_pos h

theorem sampleExpires_counts (h : ¬ countingStopped s.monitor = true) :
    sampleExpires s = addCounts (fun i => amountOf i s) (sampledState s) := if_neg h

/-- A sample takes its edge memories and timer, and then counts or not. -/
theorem sampleExpires_cases :
    sampleExpires s = sampledState s ∨ sampleExpires s = addCounts (fun i => amountOf i s) (sampledState s) := by
  by_cases h : countingStopped s.monitor = true
  · exact .inl (sampleExpires_stopped s h)
  · exact .inr (sampleExpires_counts s h)

theorem sampleExpires_sampleTimer : (sampleExpires s).monitor.sampleTimer = 10 * s.monitor.period.toNat := by
  obtain h | h := sampleExpires_cases s <;> simp [h, sampledState, periodMs]

theorem sampleExpires_edge (i : Fin 8) : (sampleExpires s).monitor.edges.get i = memoryOf i s := by
  obtain h | h := sampleExpires_cases s <;> simp [h, sampledState, Vector.get_eq_getElem]

theorem sampleExpires_setups : (sampleExpires s).monitor.setups = s.monitor.setups := by
  obtain h | h := sampleExpires_cases s <;> simp [h, sampledState]

theorem sampleExpires_escalated : (sampleExpires s).monitor.escalated = s.monitor.escalated := by
  obtain h | h := sampleExpires_cases s <;> simp [h, sampledState]

/-- A sample writes the monitor and, by a freeze, the trail. -/
theorem sampleExpires_frame :
    sampleExpires s = { s with monitor := (sampleExpires s).monitor, trail := (sampleExpires s).trail } := by
  obtain h | h := sampleExpires_cases s
  · rw [h]
    rfl
  · rw [h]
    exact addCounts_frame _ (sampledState s)

/-- A sample taken while the freeze is OFF turns it ON exactly by an escalating count. -/
theorem sampleExpires_freezes (off : s.monitor.freeze = none) :
    (sampleExpires s).monitor.freeze ≠ none ↔ Escalating (fun i => amountOf i s) s.monitor := by
  have running : ¬ countingStopped s.monitor = true := fun h => ((countingStopped_iff _).mp h).1 off
  rw [sampleExpires_counts s running]
  by_cases he : Escalating (fun i => amountOf i s) s.monitor
  · obtain ⟨on, -⟩ := addCounts_freezes _ (sampledState s) off he
    exact iff_of_true (by rw [on]; exact Option.some_ne_none _) he
  · obtain ⟨same, -⟩ := addCounts_keeps_freeze _ (sampledState s) fun h => he h.2
    exact iff_of_false (not_not.mpr (same.trans off)) he

end Sample

/-- Settles O51: the sample takes its memories and timer, and counts each amount unless counting is stopped. -/
theorem sampleAddsLevels : Obligations.SampleAddsLevels := by
  intro s u ht m c test level amount stopped
  have level_eq : level = fun i => sampledLevel i u := funext fun i => (sampledLevel_eq i u).symm
  have amount_eq : amount = fun i => amountOf i u := by
    funext i
    simp only [amount, level_eq, amountOf, sampleAmount_eq]
    cases sampledLevel i u <;> rfl
  have wraps_eq : ∀ i, decide (4294967296 ≤ (m.counters.get i).toNat + amount i) = wraps m i (amountOf i u) :=
    fun i => by rw [amount_eq]; rfl
  have memory_eq : ∀ i, memoryOf i u = match level i with
      | none => m.edges.get i
      | some n => if (c i).threshold = 0 then false else test i n := fun i => by
    simp only [level_eq, memoryOf]
    cases sampledLevel i u <;> rfl
  refine ⟨sampleExpires u, running_at ht, sampleExpires_sampleTimer u, fun i => (sampleExpires_edge u i).trans ?_,
    fun still => ?_, fun counting => ⟨fun i => ?_, fun i => ?_, fun off => ?_⟩, sampleExpires_setups u,
    sampleExpires_escalated u, sampleExpires_frame u⟩
  · exact memory_eq i
  · rw [sampleExpires_stopped u ((countingStopped_iff m).mpr still)]
    exact ⟨rfl, rfl, rfl⟩
  · rw [sampleExpires_counts u (mt (countingStopped_iff m).mp counting), addCounts_counter, amount_eq]
    rfl
  · rw [sampleExpires_counts u (mt (countingStopped_iff m).mp counting), addCounts_flag, wraps_eq]
    rfl
  · rw [sampleExpires_freezes u off]
    refine exists_congr fun i => ?_
    rw [newlySet, ← wraps_eq, Bool.and_eq_true, decide_eq_true_eq, Bool.not_eq_true',
      and_comm (b := m.flags.get i = false), and_assoc]

end Sys2Proof.Machine
end

section
/-! MONITOR SETUP, PRELOAD, ACKNOWLEDGE and READ (R134, R135, R140, R142, R145) and their images (11.6). -/

namespace Sys2Proof.Machine

/-! ### MONITOR SETUP (R134, R135) -/

/-- The arguments R134 accepts: event, ports, bus, unit value and unit mask each in range. -/
def GoodSetup (a : SetupArgs) : Prop :=
  1 ≤ a.event.toNat ∧ a.event.toNat ≤ 0x14 ∧ ¬ (0x0E ≤ a.event.toNat ∧ a.event.toNat ≤ 0x10) ∧
    1 ≤ a.ports.toNat ∧ a.ports.toNat ≤ 7 ∧ a.bus.toNat ≤ 2 ∧ a.unitValue.toNat ≤ 15 ∧ a.unitMask.toNat ≤ 15

/-- The setup that good arguments spell, for the event their code names. -/
def spelledSetup (a : SetupArgs) (e : Event) : Setup where
  enable := yes a.enable
  event := e
  ports := ⟨a.ports.getLsbD 0, a.ports.getLsbD 1, a.ports.getLsbD 2⟩
  bus := if a.bus = 0 then .ub0 else if a.bus = 1 then .ub1 else .both
  unitValue := BitVec.ofNat 4 a.unitValue.toNat
  unitMask := BitVec.ofNat 4 a.unitMask.toNat
  threshold := a.threshold.toNat
  invert := yes a.invert
  edge := yes a.edge
  escalate := yes a.escalate

theorem setupOf_good {a : SetupArgs} (h : GoodSetup a) :
    ∃ e, eventCode e = a.event ∧ setupOf a = some (spelledSetup a e) := by
  obtain ⟨he1, he2, he3, hp1, hp7, hb, hv, hm⟩ := h
  obtain ⟨e, he, code⟩ := eventOf_some a.event ⟨he1, he2, he3⟩
  refine ⟨e, code, ?_⟩
  unfold setupOf
  rw [he, busFilterOf_some a.bus hb]
  exact if_pos ⟨hp1, hp7, hv, hm⟩

theorem setupOf_bad {a : SetupArgs} (h : ¬ GoodSetup a) : setupOf a = none := by
  by_cases he : 1 ≤ a.event.toNat ∧ a.event.toNat ≤ 0x14 ∧ ¬ (0x0E ≤ a.event.toNat ∧ a.event.toNat ≤ 0x10)
  · by_cases hb : a.bus.toNat ≤ 2
    · obtain ⟨e, found, -⟩ := eventOf_some a.event he
      unfold setupOf
      rw [found, busFilterOf_some a.bus hb]
      refine if_neg fun ⟨hp1, hp7, hv, hm⟩ => h ?_
      exact ⟨he.1, he.2.1, he.2.2, hp1, hp7, hb, hv, hm⟩
    · unfold setupOf
      rw [busFilterOf_none a.bus hb]
      cases eventOf a.event <;> rfl
  · unfold setupOf
    rw [eventOf_none a.event he]

/-- The counter form with FFh has the wrong length (R162). -/
theorem monitorSetup_malformed {a : SetupArgs} (h : a.counter = 0xFF#8) (env : Envelope) (s : State) :
    monitorSetup env a s = answerCommand env cmdMonitorSetup .malformed [] s := if_pos h

theorem monitorSetup_bad {a : SetupArgs} (h : ¬ GoodSetup a ∨ 8 ≤ a.counter.toNat) (hf : a.counter ≠ 0xFF#8)
    (env : Envelope) (s : State) : monitorSetup env a s = answerCommand env cmdMonitorSetup .badArgument [] s := by
  unfold monitorSetup
  rw [if_neg hf]
  rcases h with bad | range
  · rw [setupOf_bad bad]
    cases counterOf a.counter <;> rfl
  · rw [counterOf_none a.counter range]

theorem monitorSetup_stores {a : SetupArgs} {i : Fin 8} {c : Setup} (hi : a.counter.toNat = i.val)
    (hc : setupOf a = some c) (env : Envelope) (s : State) :
    monitorSetup env a s = answerCommand env cmdMonitorSetup .done [] (storeSetup i c s) := by
  have numbered : a.counter ≠ 0xFF#8 := fun e => by
    have := i.isLt
    rw [e] at hi
    simp only [BitVec.toNat_ofNat] at hi
    omega
  unfold monitorSetup
  rw [if_neg numbered, counterOf_eq a.counter i hi, hc]

/-- A period of 0 is refused (R135). -/
theorem monitorSetupGlobal_zero (env : Envelope) (policies : Byte) (s : State) :
    monitorSetupGlobal env 0 policies s = answerCommand env cmdMonitorSetup .badArgument [] s := if_pos rfl

theorem monitorSetupGlobal_stores {steps : Byte} (h : steps ≠ 0) (env : Envelope) (policies : Byte) (s : State) :
    monitorSetupGlobal env steps policies s =
      answerCommand env cmdMonitorSetup .done [] (storeGlobal steps policies s) := if_neg h

/-! ### MONITOR PRELOAD (R140) -/

theorem monitorPreload_bad {counter : Byte} (h : 8 ≤ counter.toNat) (env : Envelope) (value : BitVec 32) (s : State) :
    monitorPreload env counter value s = answerCommand env cmdMonitorPreload .badArgument [] s := by
  unfold monitorPreload
  rw [counterOf_none counter h]

theorem monitorPreload_stores {counter : Byte} {i : Fin 8} (h : counter.toNat = i.val) (env : Envelope)
    (value : BitVec 32) (s : State) : monitorPreload env counter value s =
      answerCommand env cmdMonitorPreload .done [] (preload i value s) := by
  unfold monitorPreload
  rw [counterOf_eq counter i h]

/-! ### MONITOR ACKNOWLEDGE (R142) -/

section Acknowledge

variable (counters : Byte) (grants : BitVec 32) (flags : Byte) (m : Monitor)

theorem acknowledged_flag (i : Fin 8) :
    (acknowledged counters grants flags m).flags.get i = (m.flags.get i && !counters.getLsbD i.val) := by
  simp [acknowledged, Vector.get_eq_getElem]

theorem acknowledged_escalated {g : Nat} (h : g < 32) :
    (acknowledged counters grants flags m).escalated.getLsbD g = (m.escalated.getLsbD g && !grants.getLsbD g) := by
  simp [acknowledged, h]

end Acknowledge

/-- The overflow flags' byte holds flag n in bit n (11.6). -/
theorem flagsByte_bit (m : Monitor) (i : Fin 8) : (flagsByte m).getLsbD i.val = m.flags.get i :=
  packBits_lsb (fun i => m.flags.get i) i

theorem statusImage_length (m : Monitor) : (statusImage m).length = 6 := rfl

/-! ### MONITOR READ (R145) -/

section Read

variable {selector : Byte} (env : Envelope) (s : State)

theorem monitorRead_counter {i : Fin 8} (h : selector.toNat = i.val) :
    monitorRead env selector s = answerCommand env cmdMonitorRead .done (counterImage i s.monitor) s := by
  unfold monitorRead
  rw [counterOf_eq selector i h]

theorem monitorRead_all :
    monitorRead env 0xFF#8 s = answerCommand env cmdMonitorRead .done (monitorImage s.monitor) s := rfl

theorem monitorRead_bad (h : 8 ≤ selector.toNat) (hf : selector ≠ 0xFF#8) :
    monitorRead env selector s = answerCommand env cmdMonitorRead .badArgument [] s := by
  unfold monitorRead
  rw [counterOf_none selector h]
  exact if_neg hf

end Read

/-- The freeze image: ON, the cause, its counters and its grant (11.6). -/
theorem freezeImage_eq (f : Option FreezeCause) : freezeImage f = match f with
    | none => [0, 0, 0, 0xFF]
    | some (.counter counters) => [1, 1, counters, 0xFF]
    | some (.grant g) => [1, 2, 0, BitVec.ofNat 8 g.val]
    | some .command => [1, 3, 0, 0xFF] := by
  rcases f with _ | _ | _ | _ <;> rfl

/-- The whole monitor's image, its parts side by side (11.6). -/
theorem monitorImage_eq (m : Monitor) : monitorImage m =
    ((List.finRange 8).flatMap fun i => leBytes 4 (m.counters.get i).toNat) ++ [flagsByte m] ++
      leBytes 4 m.escalated.toNat ++
      [BitVec.ofNat 8 (m.trailHigh.toNat + 2 * m.trailWrapped.toNat + 4 * m.busFault.toNat)] ++
      freezeImage m.freeze ++
      [BitVec.ofNat 8 (m.countWhileFrozen.toNat + 2 * m.freezeOnGrant.toNat), m.period] := by
  simp only [monitorImage, statusImage, policiesByte, byte, List.append_assoc, List.cons_append, List.nil_append]

/-- Settles O58, command by command. -/
theorem monitorCommandsWriteTheMonitor : Obligations.MonitorCommandsWriteTheMonitor := by
  intro env s u ht m answered timed code flag
  have code_eq : ∀ e, code e = eventCode e := fun e => by cases e <;> rfl
  refine ⟨fun a => ?_,
    fun steps policies => ⟨fun zero => ?_,
      fun positive => running_next ht (monitorSetupGlobal_stores positive env policies u)⟩,
    fun counter value => ⟨fun range => running_next ht (monitorPreload_bad range env value u),
      fun i hi => running_next ht (monitorPreload_stores hi env value u)⟩,
    fun counters grants flags => ?_,
    fun selector => ⟨fun range hf => running_next ht (monitorRead_bad env u range hf), fun i hi => ?_, fun hf => ?_⟩⟩
  · intro good
    refine ⟨fun bad hf => running_next ht (monitorSetup_bad bad hf env u),
      fun hf => running_next ht (monitorSetup_malformed hf env u), fun i hi hg => ?_⟩
    obtain ⟨e, spelled, stored⟩ := setupOf_good hg
    obtain ⟨-, -, -, -, -, -, value, mask⟩ := hg
    refine ⟨spelledSetup a e, running_next ht (monitorSetup_stores hi stored env u), yes_iff _,
      (code_eq e).trans spelled, rfl, rfl, ?_, ?_, rfl, yes_iff _, yes_iff _, yes_iff _⟩
    · exact Nat.mod_eq_of_lt (Nat.lt_succ_of_le value)
    · exact Nat.mod_eq_of_lt (Nat.lt_succ_of_le mask)
  · subst zero
    exact running_next ht (monitorSetupGlobal_zero env policies u)
  · exact ⟨acknowledged counters grants flags m, statusImage (acknowledged counters grants flags m), running_at ht,
      acknowledged_flag counters grants flags m, fun g hg => acknowledged_escalated counters grants flags m hg,
      rfl, rfl, rfl, rfl, statusImage_length _, flagsByte_bit _, rfl⟩
  · intro c
    refine running_next ht ((monitorRead_counter env u hi).trans ?_)
    rw [code_eq, counterImage, setupImage]
    cases (m.setups.get i).bus <;> rfl
  · subst hf
    refine ⟨flagsByte m, flagsByte_bit m, running_next ht ((monitorRead_all env u).trans ?_)⟩
    rw [monitorImage_eq, freezeImage_eq]
    rfl

end Sys2Proof.Machine
end

section
/-! The access trail (R148 to R152): its law holds after power-on and every step keeps it, a record is numbered, timed and
hands its flags, and TRAIL READ removes the oldest records. -/

namespace Sys2Proof.Machine

/-! ### The law of the numbering (R149) -/

/-- R149: the numbering of the records is a law of the tables; at power-on there is no record. -/
theorem tableLaw_trailNumbered : TableLaw fun s => TrailNumbered s.trail where
  kept h := h.trail
  powerOn _raw := ⟨Nat.zero_le _, rfl⟩
  lines _ _ _ _ _ hs := hs

/-- Settles O6: it is a law of the tables. -/
theorem everyStepKeepsTheTrailNumbered : Obligations.EveryStepKeepsTheTrailNumbered :=
  fun _ _ hs h => tableLaw_trailNumbered.step_keeps hs h

/-! ### The laws after power-on -/

/-- R161: the reply queues are empty after power-on. -/
theorem repliesBounded_powerOn (raw : PerLine Bool) : RepliesBounded (State.powerOn raw) := by
  intro p
  cases p with
  | spt | rpt | svp => exact Nat.zero_le _

/-- R100: the map engine is empty after power-on. -/
theorem mapPlaces_powerOn (raw : PerLine Bool) : MapPlaces (State.powerOn raw).map :=
  ⟨Nat.zero_le _, fun _ => rfl⟩

/-- Settles O11: each law holds after power-on, whatever the lines. -/
theorem lawsHoldAtReset : Obligations.LawsHoldAtReset :=
  ⟨tableLaw_trailNumbered.powerOn _, repliesBounded_powerOn _, mapPlaces_powerOn _, tableLaw_vacantClean.powerOn _,
    flashOnlyAtRest_powerOn rfl, tableLaw_streamsCounted.powerOn _⟩

/-! ### A record (R149, R151) -/

section Record

variable (p : Option Port) (c : Option ChanId) (g : Option Slot) (v : Option UnitId) (d : Detail)

/-- A record joins a trail with room, and takes the place of the oldest record of a full one (R149). -/
theorem appendRecord_records_length (t : Trail) : (appendRecord t p c g v d).records.length =
    if t.records.length < 64 then t.records.length + 1 else t.records.length - 1 + 1 := by
  by_cases room : t.records.length < 64 <;> simp [appendRecord, Config.trailDepth, room]

/-- R151: 48 or more records are held after a record exactly where 47 or more were held before it. -/
theorem trailHigh_le_appendRecord (t : Trail) :
    Config.trailHigh ≤ (appendRecord t p c g v d).records.length ↔ 47 ≤ t.records.length := by
  rw [appendRecord_records_length, Config.trailHigh]
  split <;> omega

/-- A record's whole effect: the trail's new record and the two flags it can hand (R149, R151). -/
theorem writeRecord_eq (s : State) : writeRecord p c g v d s = { s with
    trail := {
      records := (if s.trail.records.length < 64 then s.trail.records else s.trail.records.tail) ++
        [{ seq := s.trail.next, time := s.trail.clock, requester := p, chan := c, grant := g, unit := v, detail := d }]
      next := s.trail.next + 1
      clock := s.trail.clock }
    monitor := { s.monitor with
      trailWrapped := s.monitor.trailWrapped || decide (64 ≤ s.trail.records.length)
      trailHigh := s.monitor.trailHigh || decide (47 ≤ s.trail.records.length) } } := by
  have wrapped : (!decide (s.trail.records.length < Config.trailDepth)) = decide (64 ≤ s.trail.records.length) := by
    rw [← decide_not]
    exact decide_eq_decide.mpr Nat.not_lt
  have high : decide (Config.trailHigh ≤ (appendRecord s.trail p c g v d).records.length) =
      decide (47 ≤ s.trail.records.length) :=
    decide_eq_decide.mpr (trailHigh_le_appendRecord p c g v d s.trail)
  unfold writeRecord
  dsimp only
  rw [wrapped, high, appendRecord, List.drop_one]
  rfl

end Record

/-! ### TRAIL READ (R152) -/

section Read

variable {n : Byte} (env : Envelope) (s : State)

theorem trailRead_bad (h : n = 0 ∨ 8 < n.toNat) :
    trailRead env n s = answerCommand env cmdTrailRead .badArgument [] s :=
  if_pos h

theorem trailRead_done (low : 1 ≤ n.toNat) (high : n.toNat ≤ 8) : trailRead env n s =
    answerCommand env cmdTrailRead .done (trailPayload n.toNat s.trail) (dropRecords n.toNat s) := by
  refine if_neg (not_or.mpr ⟨?_, Nat.not_lt.mpr high⟩)
  rintro rfl
  exact absurd low (by decide)

end Read

/-- Settles O13: a record by `writeRecord_eq`, TRAIL READ by whether its count is in range. -/
theorem trailIsWrittenAndRead : Obligations.TrailIsWrittenAndRead :=
  ⟨writeRecord_eq, fun env _ _ u ht =>
    ⟨fun bad => running_next ht (trailRead_bad env u bad),
      fun low high => running_next ht (trailRead_done env u low high)⟩⟩

end Sys2Proof.Machine
end

section
/-! One idle millisecond (R148, R12, log 2): what it leaves in each table, read entry by entry. -/

namespace Sys2Proof.Machine

/-! ### The tables after a millisecond -/

section Tick

variable (s : State)

@[simp] theorem grantAt_tick (g : Slot) : grantAt g (tick s) = tickGrant (grantAt g s) := vector_get_ofFn _ _
@[simp] theorem unitAt_tick (v : UnitId) : unitAt v (tick s) = tickUnit (unitAt v s) := vector_get_ofFn _ _
@[simp] theorem streamAt_tick (k : CtxId) : streamAt k (tick s) = (streamAt k s).map tickStream := vector_get_ofFn _ _
@[simp] theorem busAt_tick (b : BusId) : busAt b (tick s) = tickBus (busAt b s) := by cases b <;> rfl
@[simp] theorem filterTimers_tick (l : Line) : (tick s).filterTimers.get l = tickTimer (s.filterTimers.get l) := by
  cases l <;> rfl
@[simp] theorem reasm_tick (i : Fin 4) : (tick s).spt.reasm.get i = (s.spt.reasm.get i).map tickReasm :=
  vector_get_ofFn _ _

end Tick

/-! ### The seconds of a grant (R12, log 25) -/

section Seconds

variable {x : Grant}

theorem tickGrant_stopped (h : x.state = .vacant ∨ x.expiry = 0) : tickGrant x = x := if_pos h

section Running

variable (installed : x.state ≠ .vacant) (expires : x.expiry ≠ 0)
include installed expires

theorem tickGrant_running : tickGrant x =
    if x.subMs < 999 then { x with subMs := x.subMs + 1 }
    else if x.expiry = 1 then { x with subMs := 1000 }
    else { x with expiry := x.expiry - 1, subMs := 0 } :=
  if_neg (not_or.mpr ⟨installed, expires⟩)

theorem tickGrant_within (h : x.subMs < 999) : tickGrant x = { x with subMs := x.subMs + 1 } :=
  (tickGrant_running installed expires).trans (if_pos h)

theorem tickGrant_second (h : 999 ≤ x.subMs) (more : x.expiry ≠ 1) :
    tickGrant x = { x with expiry := x.expiry - 1, subMs := 0 } := by
  rw [tickGrant_running installed expires, if_neg (Nat.not_lt.mpr h), if_neg more]

theorem tickGrant_last (h : 999 ≤ x.subMs) (last : x.expiry = 1) : tickGrant x = { x with subMs := 1000 } := by
  rw [tickGrant_running installed expires, if_neg (Nat.not_lt.mpr h), if_pos last]

end Running

end Seconds

/-! ### The step on an empty queue -/

theorem step_empty {s : State} (h : s.pending = []) : step s = .next (idle s) := by
  unfold step
  rw [h]

theorem idle_inReset {s : State} (h : s.inReset = true) : idle s = s := if_pos h

theorem idle_running {s : State} (h : s.inReset = false) : idle s = tick (settle s) :=
  if_neg (by rw [h]; exact Bool.false_ne_true)

/-- Settles O2: in reset nothing happens; else a millisecond of each table after the due steps, which keep lines and queue. -/
theorem emptyQueueIdlesOneMillisecond : Obligations.EmptyQueueIdlesOneMillisecond := by
  intro s empty
  refine ⟨fun held => (step_empty empty).trans (congrArg _ (idle_inReset held)), fun released =>
    ⟨tick (settle s), (step_empty empty).trans (congrArg _ (idle_running released)), ?_⟩⟩
  have settled : Keeps s (settle s) := keeps_settle (Keeps.refl s)
  refine ⟨settled.inReset.trans released, settled.pending.trans empty, rfl, rfl, filterTimers_tick _, fun g => ?_,
    unitAt_tick _, streamAt_tick _, busAt_tick _, rfl, reasm_tick _, rfl, rfl, rfl, rfl, rfl, settled.raw,
    settled.filtered⟩
  intro x
  have ticked : grantAt g (tick (settle s)) = tickGrant x := grantAt_tick _ g
  rw [ticked]
  exact ⟨tickGrant_stopped, fun installed expires => ⟨tickGrant_within installed expires,
    tickGrant_second installed expires, tickGrant_last installed expires⟩⟩

end Sys2Proof.Machine
end

section
/-! The bounds of the reply queues and of the map queue (R161, R100), kept by every step. -/

namespace Sys2Proof.Machine

/-- R161: that no reply queue passes 12 replies is a law of the tables. -/
theorem tableLaw_repliesBounded : TableLaw RepliesBounded where
  kept h := h.replies
  powerOn := repliesBounded_powerOn
  lines _ _ _ _ _ hs := hs

/-- R100: that the map queue has at most 4 jobs, and none without an active job, is a law of the tables. -/
theorem tableLaw_mapPlaces : TableLaw fun s => MapPlaces s.map where
  kept h := h.map
  powerOn := mapPlaces_powerOn
  lines _ _ _ _ _ hs := hs

/-- Settles O7: both bounds are laws of the tables. -/
theorem everyStepKeepsTheQueuesBounded : Obligations.EveryStepKeepsTheQueuesBounded := fun _ _ h =>
  ⟨fun hs => tableLaw_repliesBounded.step_keeps hs h, fun hs => tableLaw_mapPlaces.step_keeps hs h⟩

end Sys2Proof.Machine
end

section
/-! A reply offered to its port's queue (R161, R82). -/

namespace Sys2Proof.Machine

/-! ### A queue with room -/

section Room

variable (r : Reply) (s : State)

theorem repliesAt_pushReply : repliesAt (chanPort r.chan) (pushReply r s) = repliesAt (chanPort r.chan) s ++ [r] :=
  repliesAt_setReplies ..

theorem repliesAt_pushReply_ne {q : Port} (h : q ≠ chanPort r.chan) : repliesAt q (pushReply r s) = repliesAt q s :=
  repliesAt_setReplies_ne _ _ _ _ h.symm

/-- A reply that joins a queue writes the queues only. -/
theorem pushReply_frame : pushReply r s = { s with replies := (pushReply r s).replies } := rfl

end Room

/-! ### A full queue -/

/-- R82: a CLOSED or HALTED channel is not halted again. -/
theorem haltEntry_still {c : ChanId} {s : State} (h : (chanAt c s).state = .closed ∨ (chanAt c s).state = .halted)
    (cause : HaltCause) : haltEntry c cause s = s :=
  if_neg fun working => h.elim ((isWorking_iff _).mp working).1 ((isWorking_iff _).mp working).2

section Full

variable {r : Reply} {s : State}

/-- R161: a reply offered to a full queue is dropped and reported; one to an admitted request halts its channel. -/
theorem offerReply_full (h : 12 ≤ (repliesAt (chanPort r.chan) s).length) (admitted : Bool) :
    offerReply r admitted s =
      if admitted then haltEntry r.chan .replyDropped (report ⟨.replyDropped, some (chanPort r.chan), none, none⟩ s)
      else report ⟨.replyDropped, some (chanPort r.chan), none, none⟩ s := by
  have full : replyRoom (chanPort r.chan) s = false := decide_eq_false (Nat.not_lt.mpr h)
  unfold offerReply
  rw [full]
  rfl

theorem offerReply_full_halts (h : 12 ≤ (repliesAt (chanPort r.chan) s).length)
    (hc : (chanAt r.chan s).state ≠ .closed) (hh : (chanAt r.chan s).state ≠ .halted) :
    offerReply r true s = setChan r.chan
      { dropStaged (chanAt r.chan s) with state := .halted, haltCause := some .replyDropped, clearPending := false }
      (report ⟨.replyDropped, some (chanPort r.chan), none, none⟩ s) := by
  rw [offerReply_full h, if_pos rfl, haltEntry_working (by rwa [report_chanAt]) (by rwa [report_chanAt]), report_chanAt]

theorem offerReply_full_still (h : 12 ≤ (repliesAt (chanPort r.chan) s).length)
    (hs : (chanAt r.chan s).state = .closed ∨ (chanAt r.chan s).state = .halted) :
    offerReply r true s = report ⟨.replyDropped, some (chanPort r.chan), none, none⟩ s := by
  rw [offerReply_full h, if_pos rfl, haltEntry_still (by rwa [report_chanAt])]

end Full

/-- Settles O17, by the room in the queue and the state of the channel. -/
theorem replyJoinsTheTailOrIsDropped : Obligations.ReplyJoinsTheTailOrIsDropped := by
  intro r admitted s p
  refine ⟨fun room => ?_, fun full => ?_⟩
  · rw [offerReply_room room]
    exact ⟨repliesAt_pushReply r s, fun q hq => repliesAt_pushReply_ne r s hq, pushReply_frame r s⟩
  · intro s1
    refine ⟨?_, ?_, ?_⟩
    · rintro rfl
      exact offerReply_full full false
    · rintro rfl hs
      exact offerReply_full_still full hs
    · rintro rfl hc hh
      exact offerReply_full_halts full hc hh

end Sys2Proof.Machine
end

section
/-! PORT SETUP (R158). -/

namespace Sys2Proof.Machine

section PortSetup

variable {reqId repId : BitVec 16} (env : Envelope) {s : State}

theorem portSetup_bad (h : idsOk reqId repId = false) :
    portSetup env reqId repId s = answerCommand env cmdPortSetup .badArgument [] s := by
  unfold portSetup
  rw [h]
  rfl

theorem portSetup_inUse (h : idsOk reqId repId = true) (up : s.spt.link = true) :
    portSetup env reqId repId s = answerCommand env cmdPortSetup .inUse [] s := by
  unfold portSetup
  rw [h, up]
  rfl

theorem portSetup_stores (h : idsOk reqId repId = true) (down : s.spt.link = false) :
    portSetup env reqId repId s = answerCommand env cmdPortSetup .done [] (storeIds reqId repId s) := by
  unfold portSetup
  rw [h, down]
  rfl

end PortSetup

/-- A number of at most 11 bits is the identifier it names. -/
theorem toNat_ofNat_canId {n : Nat} (h : n ≤ 0x7FF) : (BitVec.ofNat 11 n).toNat = n := by
  rw [BitVec.toNat_ofNat]
  exact Nat.mod_eq_of_lt (Nat.lt_succ_of_le h)

/-- Settles O59, by the identifiers and the link. -/
theorem portSetupStoresTheIdentifiers : Obligations.PortSetupStoresTheIdentifiers := by
  intro env reqId repId s u ht bad answered
  have good : ¬ bad ↔ idsOk reqId repId = true := by
    rw [idsOk_iff]
    simp only [bad, not_or, Nat.not_lt, ne_eq]
  refine ⟨fun hb => ?_, fun hb up => running_next ht (portSetup_inUse env (good.mp hb) up), fun hb down => ?_⟩
  · exact running_next ht (portSetup_bad env (Bool.eq_false_iff.mpr fun ok => good.mpr ok hb))
  · obtain ⟨reqLow, repLow, -⟩ := (idsOk_iff _ _).mp (good.mp hb)
    exact ⟨_, _, toNat_ofNat_canId reqLow, toNat_ofNat_canId repLow,
      running_next ht (portSetup_stores env (good.mp hb) down)⟩

end Sys2Proof.Machine
end

section
/-! The replies of the Service Port, segment by segment (R161, R165). -/

namespace Sys2Proof.Machine

/-! ### A reply begins -/

section Sending

variable {r : Reply} {rest : List Reply} {s : State}

theorem transmitReply_begins (head : s.replies.spt = r :: rest) (idle : s.spt.sending = none) (wire : s.spt.wire = none) :
    transmitReply s = { s with spt := { s.spt with sending := some 0, wire := some (replyFrame s.spt.repId r 0) } } := by
  unfold transmitReply
  rw [head, idle, wire]

/-- With nothing to send, a reply in transmission or a frame on the wire, none begins (log 5, log 13). -/
theorem transmitReply_still (h : s.replies.spt = [] ∨ s.spt.sending ≠ none ∨ s.spt.wire ≠ none) : transmitReply s = s := by
  unfold transmitReply
  split
  · rename_i head idle wire
    rcases h with h | h | h
    · rw [h] at head
      cases head
    · exact absurd idle h
    · exact absurd wire h
  · rfl

/-! ### The frame on the wire is done -/

theorem replyFrameDone_idle (wire : s.spt.wire = none) (sent : Bool) : replyFrameDone sent s = s := by
  unfold replyFrameDone
  rw [wire]

/-- A frame whose reply was dropped is only taken off the wire (log 13). -/
theorem replyFrameDone_dropped (idle : s.spt.sending = none) (sent : Bool) :
    replyFrameDone sent s = { s with spt := { s.spt with sending := none, wire := none } } := by
  unfold replyFrameDone
  split
  · rename_i wire
    rw [← wire, ← idle]
  · split
    · unfold replyFrameSent
      rw [idle]
    · unfold replyFrameFailed
      rw [idle]
      dsimp only
      rw [idle]

variable {n : Nat} {f : Frame} (sending : s.spt.sending = some n) (wire : s.spt.wire = some f)
include sending wire

theorem replyFrameDone_failed : replyFrameDone false s = s := by
  unfold replyFrameDone replyFrameFailed
  rw [wire, sending]
  rfl

variable (head : s.replies.spt = r :: rest)
include head

theorem replyFrameDone_sent : replyFrameDone true s =
    if n + 1 < segmentCount (replyBody r).length then
      { s with spt := { s.spt with sending := some (n + 1), wire := some (replyFrame s.spt.repId r (n + 1)) } }
    else setReplies .spt rest { s with spt := { s.spt with sending := none, wire := none } } := by
  unfold replyFrameDone replyFrameSent
  rw [wire, sending, head]
  rfl

end Sending

/-! ### The segments of a reply -/

theorem replyBody_length (r : Reply) : (replyBody r).length = 3 + r.payload.length := by
  unfold replyBody
  rw [List.length_cons, List.length_cons, List.length_cons]
  omega

theorem segmentCount_replyBody (r : Reply) : segmentCount (replyBody r).length = (3 + r.payload.length + 61) / 62 := by
  rw [replyBody_length]
  rfl

/-- A body of at most 62 bytes goes in one frame, FIRST and LAST (R165). -/
theorem segmentFrame_single {body : List Byte} (h0 : 0 < body.length) (h : body.length ≤ 62) (id : CanId) (chan : Nat)
    (b : Buf) : segmentFrame id chan b body 0 =
      { id := id
        bytes := padFrame (BitVec.ofNat 8 (192 + 4 * chan + 2 * bufBit b) :: BitVec.ofNat 8 body.length :: body) } := by
  have one : segmentCount body.length = 0 + 1 := by
    unfold segmentCount Config.segmentData
    omega
  have all : (body.drop (Config.segmentData * 0)).take Config.segmentData = body := List.take_of_length_le h
  unfold segmentFrame
  dsimp only
  rw [one, all]
  rfl

/-- Settles O39, by what is in transmission and on the wire. -/
theorem serviceRepliesAreSent : Obligations.ServiceRepliesAreSent := by
  intro s u ht frame segments sending
  refine ⟨fun r rest head => ⟨fun idle wire => running_next ht (transmitReply_begins head idle wire), ?_⟩,
    fun h => running_next ht (transmitReply_still h), fun wire sent => running_next ht (replyFrameDone_idle wire sent),
    fun idle sent => running_next ht (replyFrameDone_dropped idle sent), fun r short => ?_⟩
  · intro n f hs hw
    have count : segmentCount (replyBody r).length = segments r := segmentCount_replyBody r
    refine ⟨running_next ht (replyFrameDone_failed hs hw), fun more => ?_, fun last => ?_⟩
    · exact running_next ht ((replyFrameDone_sent hs hw head).trans (if_pos (count ▸ more)))
    · exact running_next ht ((replyFrameDone_sent hs hw head).trans (if_neg (count ▸ Nat.not_lt.mpr last)))
  · have length := replyBody_length r
    have single := segmentFrame_single (body := replyBody r) (by omega) (by omega) u.spt.repId (chanIdx r.chan).val r.buf
    rw [length] at single
    refine single.trans ?_
    cases r.buf <;> rfl

end Sys2Proof.Machine
end

section
/-! Segments at the Service Port (R154 to R156): the sign of presence, and what a segment makes of its channel's reassembly. -/

namespace Sys2Proof.Machine

/-! ### A valid segment (R154, R156) -/

theorem isValidSegment_iff (g : Segment) : isValidSegment g = true ↔
    (g.first = true ∧ 1 ≤ g.length ∧ g.length ≤ 244) ∨ (g.first = false ∧ g.length = 0) := by
  unfold isValidSegment
  cases g.first with
  | true => simp
  | false => simp

section Frame

variable {id : CanId} {frame : List Byte} {g : Segment} {s : State}

theorem sptFrame_ignored (h : id ≠ s.spt.reqId ∨ frame.length < 2) : sptFrame id frame s = s := by
  unfold sptFrame
  rcases h with other | short
  · rw [if_neg other]
  · rw [parseSegment_short short]
    exact ite_self s

theorem sptFrame_invalid (hg : parseSegment frame = some g) (h : isValidSegment g = false) :
    sptFrame id frame s = s := by
  unfold sptFrame
  simp only [hg, h]
  exact ite_self s

theorem sptFrame_taken (hid : id = s.spt.reqId) (hg : parseSegment frame = some g) (h : isValidSegment g = true) :
    sptFrame id frame s = takeSptSegment g (signOfPresence s) := by
  unfold sptFrame
  rw [if_pos hid, hg]
  exact if_pos h

end Frame

/-- R156, R6: on an UP link the timer restarts; a link that goes UP activates the ARMED grants. -/
theorem signOfPresence_eq (s : State) : signOfPresence s =
    if s.spt.link then { s with spt := { s.spt with linkTimer := some 2000 } }
    else { s with
      spt := { s.spt with link := true, linkTimer := some 2000 }
      grants := Vector.ofFn fun g =>
        if (grantAt g s).state = .armed then { grantAt g s with state := .active } else grantAt g s } := by
  unfold signOfPresence
  split
  · rename_i up
    rw [← up]
    rfl
  · rfl

theorem signOfPresence_reasm (s : State) : (signOfPresence s).spt.reasm = s.spt.reasm := by
  unfold signOfPresence
  split
  · rfl
  · rfl

/-! ### A segment's data join a reassembly (R155) -/

section Data

variable {x : SptReasm} {data : List Byte}

theorem addSptData_incomplete (h : data.length < x.length - x.bytes.length) : addSptData x true data = .fault :=
  if_neg (Nat.not_le.mpr h)

theorem addSptData_complete (h : x.length - x.bytes.length ≤ data.length) :
    addSptData x true data = .complete (x.bytes ++ data.take (x.length - x.bytes.length)) :=
  if_pos h

/-- A segment that is not LAST must leave bytes to come, and fill its frame where more than a frame remains (log 15). -/
theorem addSptData_misfit (h : x.length - x.bytes.length ≤ data.length ∨
    (data.length < 62 ∧ 62 < x.length - x.bytes.length)) : addSptData x false data = .fault :=
  if_pos h

theorem addSptData_more (h : data.length < x.length - x.bytes.length)
    (fits : data.length = 62 ∨ x.length - x.bytes.length ≤ 62) : addSptData x false data =
      .more { x with bytes := x.bytes ++ data, next := x.next + 1, gap := 1000 } := by
  refine if_neg (not_or.mpr ⟨Nat.not_le.mpr h, fun misfit => ?_⟩)
  obtain ⟨partly, long⟩ := misfit
  rcases fits with full | ends
  · exact absurd full partly.ne
  · exact absurd ends (Nat.not_le.mpr long)

end Data

/-- The reassembly that a segment's data are to join: the one a FIRST segment starts, or its channel's (R155). -/
def sptHeld (r : Option SptReasm) (g : Segment) : Option SptReasm := if g.first then some (startedReasm g) else r

section Effect

variable {r : Option SptReasm} {g : Segment} {x : SptReasm}

theorem segmentEffect_unheld (h : sptHeld r g = none) : segmentEffect r g = .fault := by
  unfold sptHeld at h
  unfold segmentEffect
  split at h
  · cases h
  · rename_i later
    rw [if_neg later, h]

theorem segmentEffect_held (h : sptHeld r g = some x) : segmentEffect r g =
    if g.index = x.next ∧ g.buf = x.buf then addSptData x g.last g.data else .fault := by
  unfold sptHeld at h
  unfold segmentEffect
  split at h
  · rename_i first
    cases h
    rw [if_pos first]
    simp only [startedReasm, and_true]
  · rename_i later
    rw [if_neg later, h]

end Effect

section Taking

variable {g : Segment} {s : State}

theorem takeSptSegment_fault (h : segmentEffect (sptReasm g.chan s) g = .fault) :
    takeSptSegment g s = faultSegment g.chan g.buf s := by
  unfold takeSptSegment
  rw [h]

theorem takeSptSegment_more {x : SptReasm} (h : segmentEffect (sptReasm g.chan s) g = .more x) :
    takeSptSegment g s = setSptReasm g.chan (some x) s := by
  unfold takeSptSegment
  rw [h]

theorem takeSptSegment_complete {body : List Byte} (h : segmentEffect (sptReasm g.chan s) g = .complete body) :
    takeSptSegment g s = deliver (chanOf .spt g.chan) g.buf body (setSptReasm g.chan none s) := by
  unfold takeSptSegment
  rw [h]

end Taking

/-! ### The gap timer (R155) -/

theorem gapExpires_stopped {i : Fin 4} {s : State} (h : s.spt.reasm.get i = none) : gapExpires i s = s := by
  unfold gapExpires sptReasm
  rw [h]

theorem gapExpires_faults {i : Fin 4} {x : SptReasm} {s : State} (h : s.spt.reasm.get i = some x) :
    gapExpires i s = faultSegment i x.buf s := by
  unfold gapExpires sptReasm
  rw [h]

/-- A fault discards the reassembly and is answered MALFORMED (R155). -/
theorem faultSegment_eq (i : Fin 4) (b : Buf) (s : State) : faultSegment i b s =
    offerReply (malformedReply (chanOf .spt i) b) false
      { s with spt := { s.spt with reasm := s.spt.reasm.set i.val none } } := rfl

/-- Settles O37, by the validity of the segment, the reassembly it joins, and whether it is LAST. -/
theorem segmentsAreReassembled : Obligations.SegmentsAreReassembled := by
  refine ⟨fun id frame s u ht => ⟨fun h => running_next ht (sptFrame_ignored h), fun h l data hid hf => ?_⟩,
    fun i s u ht => ⟨fun h => running_next ht (gapExpires_stopped h),
      fun x h => running_next ht ((gapExpires_faults h).trans (faultSegment_eq i x.buf u))⟩⟩
  intro first last index i b bytes valid up put faulted held
  have segment : parseSegment frame = some (segmentOf h l data) := hf ▸ parseSegment_bytes h l data
  have valid_iff : isValidSegment (segmentOf h l data) = true ↔ valid := by
    rw [isValidSegment_iff]
    have zero : l.toNat = 0 ↔ l = 0 := BitVec.toNat_inj (y := 0)
    exact or_congr Iff.rfl (and_congr Iff.rfl zero)
  have present : signOfPresence u = up := signOfPresence_eq u
  have reasm : sptReasm i up = u.spt.reasm.get i := by
    rw [← present]
    unfold sptReasm
    rw [signOfPresence_reasm]
  have joins : sptHeld (sptReasm i up) (segmentOf h l data) = held := by
    rw [reasm]
    rfl
  have taken : ∀ v, valid → takeSptSegment (segmentOf h l data) up = v → exec (.validSegment id frame) s = .next v :=
    fun v hv e => running_next ht ((sptFrame_taken hid segment (valid_iff.mpr hv)).trans (present ▸ e))
  refine ⟨fun hv => ?_, fun hv none => ?_, fun x hv some => ?_⟩
  · exact running_next ht (sptFrame_invalid segment (Bool.eq_false_iff.mpr fun ok => hv (valid_iff.mp ok)))
  · exact taken _ hv (takeSptSegment_fault (segmentEffect_unheld (joins.trans none)))
  · intro rest
    have effect := segmentEffect_held (joins.trans some)
    have inTurn : index = x.next → b = x.buf → segmentEffect (sptReasm i up) (segmentOf h l data) =
        addSptData x last bytes := fun hi hb => effect.trans (if_pos ⟨hi, hb⟩)
    refine ⟨fun out => ?_, fun hi hb hl => ⟨fun short => ?_, fun enough => ?_⟩,
      fun hi hb hl => ⟨fun misfit => ?_, fun part fits => ?_⟩⟩
    · exact taken _ hv (takeSptSegment_fault (effect.trans (if_neg fun turn => out.elim (· turn.1) (· turn.2))))
    · exact taken _ hv (takeSptSegment_fault ((inTurn hi hb).trans (hl ▸ addSptData_incomplete short)))
    · exact taken _ hv (takeSptSegment_complete ((inTurn hi hb).trans (hl ▸ addSptData_complete enough)))
    · exact taken _ hv (takeSptSegment_fault ((inTurn hi hb).trans (hl ▸ addSptData_misfit misfit)))
    · exact taken _ hv (takeSptSegment_more ((inTurn hi hb).trans (hl ▸ addSptData_more part fits)))

end Sys2Proof.Machine
end

section
/-! The service link goes DOWN (R157, R7, R80): whatever the order of its consequences, what ran under a lapsed grant is over and
the Service Port's channels are CLOSED. -/

namespace Sys2Proof.Machine

/-! ### The grants that lapse (R7) -/

theorem lapses_iff (x : Grant) : lapses x = true ↔
    x.requester = .spt ∧ x.lapse = true ∧ x.state ∈ [GrantState.active, .suspended, .spent] := by
  unfold lapses
  simp only [Bool.and_eq_true, Bool.or_eq_true, beq_iff_eq, List.mem_cons, List.not_mem_nil, or_false, and_assoc, or_assoc]

theorem mem_lapsingSlots {g : Slot} {s : State} : g ∈ lapsingSlots s ↔ lapses (grantAt g s) = true := by
  unfold lapsingSlots allSlots
  rw [List.mem_filter]
  exact and_iff_right (List.mem_finRange g)

/-- The slots of a list are vacated, every other grant is as before. -/
theorem grantAt_vacateAll (g : Slot) (l : List Slot) : ∀ s : State,
    grantAt g (l.foldl (fun s g => vacateGrant g .lapsed s) s) = if g ∈ l then Grant.vacant else grantAt g s := by
  induction l with
  | nil => exact fun s => (if_neg List.not_mem_nil).symm
  | cons a l ih =>
    intro s
    rw [List.foldl_cons, ih]
    by_cases later : g ∈ l
    · rw [if_pos later, if_pos (List.mem_cons_of_mem a later)]
    · rw [if_neg later]
      by_cases now : a = g
      · rw [now, if_pos List.mem_cons_self]
        exact grantAt_setGrant ..
      · rw [if_neg fun mem => (List.mem_cons.mp mem).elim (fun e => now e.symm) later]
        exact grantAt_setGrant_ne _ _ _ _ now

theorem grantAt_vacateLapsing (g : Slot) (s : State) :
    grantAt g (vacateLapsing s) = if lapses (grantAt g s) = true then Grant.vacant else grantAt g s := by
  unfold vacateLapsing
  rw [grantAt_vacateAll]
  simp only [mem_lapsingSlots]

/-- Vacating writes the grants, the trail and the monitor only. -/
theorem vacateAll_frame (l : List Slot) : ∀ s : State, ∃ gs tr m,
    l.foldl (fun s g => vacateGrant g .lapsed s) s = { s with grants := gs, trail := tr, monitor := m } := by
  induction l with
  | nil => exact fun s => ⟨_, _, _, rfl⟩
  | cons a l ih =>
    intro s
    obtain ⟨gs, tr, m, frame⟩ := ih (vacateGrant a .lapsed s)
    exact ⟨gs, tr, m, frame⟩

theorem vacateLapsing_frame (s : State) : ∃ gs tr m,
    vacateLapsing s = { s with grants := gs, trail := tr, monitor := m } :=
  vacateAll_frame (lapsingSlots s) s

/-! ### What the consequences end -/

section Consequences

variable {ended : List Slot} {all : List Consequence} (picks : List Nat) (s : State)

/-- The consequences of a grant's end among those of a larger event, in any order, leave nothing running under it (R18):
`grantEnd_nothingUnder` for a list that holds others too. -/
theorem nothingUnder_of_consequences {g : Slot} (h : ∀ q ∈ grantConsequences ended g, q ∈ all) :
    NothingUnder g (runAll picks all s) where
  claims w := runAll_reaches (P := ClaimOver w fun cl => cl.grant = some g) (.grantClaim w g) (grantClaim_over w g)
    (fun _ _ hw hv => claimOver_winds hw hv) _ _ (h _ (by simp [grantConsequences, allUnits])) s
  streams k := runAll_reaches (P := StreamsOver (fun x => x.grant = g) k) (.streamGrant k g) (streamGrant_over k g)
    (fun _ _ hw hv => streamsOver_winds (fun _ _ later hy => later.2.2.1 ▸ hy) hw hv) _ _
    (h _ (by simp [grantConsequences, allCtxs])) s
  jobs := runAll_reaches (P := JobsOver fun j => j.grant = g) (.mapGrant g) (mapGrant_over g)
    (fun _ _ hw hv => jobsOver_winds (fun _ _ same hj => same.2.2.2.2 ▸ hj) hw hv) _ _
    (h _ (by simp [grantConsequences])) s

/-- A CLOSED channel stays CLOSED through the ends of work. -/
theorem closed_winds {c : ChanId} {v w : State} (hw : Winds v w) (h : (chanAt c v).state = .closed) :
    (chanAt c w).state = .closed :=
  (hw.closed c h).1

/-- R80: closing the Service Port's channels leaves each CLOSED. -/
theorem closeSptChannels_closed (i : Fin 4) : (chanAt (chanOf .spt i) (closeSptChannels s)).state = .closed := by
  unfold closeSptChannels
  refine fold_reaches (P := fun v => (chanAt (chanOf .spt i) v).state = .closed) _ i (fun v => ?_) (fun v j hv => ?_) _
    (List.mem_finRange i) s
  · split
    · assumption
    · exact (closed_closeChannel _ _).1
  · split
    · exact hv
    · exact closed_winds (winds_closeChannel (Winds.refl v) _) hv

theorem sptClosed_of_consequences (h : .closeSpt ∈ all) (i : Fin 4) :
    (chanAt (chanOf .spt i) (runAll picks all s)).state = .closed :=
  runAll_reaches (P := fun v => (chanAt (chanOf .spt i) v).state = .closed) .closeSpt
    (fun v => closeSptChannels_closed v i) (fun _ _ hw hv => closed_winds hw hv) _ _ h s

end Consequences

/-! ### The link DOWN -/

/-- The consequences of the link DOWN in the other blocks: the lapsed grants' ends and the close of SPT's channels. -/
def linkDownConsequences (s : State) : List Consequence :=
  (lapsingSlots s).flatMap (grantConsequences (lapsingSlots s)) ++ [.closeSpt]

section LinkDown

variable (picks : List Nat) (s : State)

/-- The end of the session but for the queue emptied again at its end (log 19). -/
def linkEnded : State := runAll picks (linkDownConsequences s) (vacateLapsing (sptLinkDown s))

theorem linkDown_eq : linkDown picks s = emptySptReplies (linkEnded picks s) := rfl

/-- From the vacated grants on, work only ends. -/
theorem winds_linkEnded : Winds (vacateLapsing (sptLinkDown s)) (linkEnded picks s) := winds_runAll (Winds.refl _) _ _

theorem grantAt_linkEnded (g : Slot) : grantAt g (linkEnded picks s) =
    if lapses (grantAt g s) = true then Grant.vacant else grantAt g s := by
  refine (congrArg (fun gs => gs.get g) (winds_linkEnded picks s).grants).trans ?_
  exact grantAt_vacateLapsing g (sptLinkDown s)

theorem nothingUnder_linkEnded {g : Slot} (h : lapses (grantAt g s) = true) : NothingUnder g (linkEnded picks s) :=
  nothingUnder_of_consequences picks _ (ended := lapsingSlots s) fun _ hq =>
    List.mem_append_left _ (List.mem_flatMap.mpr ⟨g, mem_lapsingSlots.mpr h, hq⟩)

end LinkDown

theorem linkTimerExpires_stopped {s : State} (h : s.spt.linkTimer = none) (picks : List Nat) :
    linkTimerExpires picks s = s := by
  unfold linkTimerExpires
  rw [h]

theorem linkTimerExpires_ends {s : State} (h : s.spt.linkTimer ≠ none) (picks : List Nat) :
    linkTimerExpires picks s = linkDown picks s := by
  unfold linkTimerExpires
  split
  · exact absurd ‹_› h
  · rfl

/-- Settles O38: what the vacated grants leave, and what every order of the consequences keeps and reaches. -/
theorem linkDownEndsTheSession : Obligations.LinkDownEndsTheSession := by
  intro race s u ht
  refine ⟨fun h => running_next ht (linkTimerExpires_stopped h race),
    fun h => ⟨emptySptReplies (linkEnded race u), running_next ht (linkTimerExpires_ends h race), ?_⟩⟩
  have winds := winds_linkEnded race u
  obtain ⟨gs, tr, m, vacated⟩ := vacateLapsing_frame (sptLinkDown u)
  rw [vacated] at winds
  refine ⟨winds.spt, repliesAt_setReplies .., fun g => ?_,
    fun i => sptClosed_of_consequences race _ (List.mem_append_right _ (List.mem_singleton_self _)) i,
    winds.filtered, winds.raw, winds.busStates, winds.defs⟩
  intro x lapsed
  have grant : grantAt g (linkEnded race u) = if lapses x = true then Grant.vacant else x := grantAt_linkEnded race u g
  refine ⟨fun hl => ?_, fun hl => grant.trans (if_neg fun h => hl ((lapses_iff x).mp h))⟩
  obtain ⟨claims, streams, jobs⟩ := nothingUnder_linkEnded race u ((lapses_iff x).mpr hl)
  exact ⟨grant.trans (if_pos ((lapses_iff x).mpr hl)), claims, streams, jobs⟩

end Sys2Proof.Machine
end

section
/-! SPI transactions (R159, R160, R162): a WRITE MESSAGE delivers a request or a command, READ REPLY and READ STATUS drive bytes. -/

namespace Sys2Proof.Machine

/-! ### The first byte (R159, log 21) -/

section Transaction

variable (p : SpiPort) (rest : List Byte) (picks : List Nat) (s : State)

theorem spiTransaction_write : spiTransaction p (0xA1#8 :: rest) picks s =
    spiWrite p rest picks (setMiso p (List.replicate rest.length 0) s) := rfl

theorem spiTransaction_readReply : spiTransaction p (0xA2#8 :: rest) picks s = spiReadReply p rest.length s := rfl

theorem spiTransaction_readStatus : spiTransaction p (0xA3#8 :: rest) picks s = spiReadStatus p rest.length s := rfl

end Transaction

/-! ### The message of a WRITE MESSAGE -/

/-- R159: the faults of a WRITE MESSAGE: a length outside 1 to 244, fewer bytes than the length, the control mark at RPT. -/
def SpiFaulty (p : SpiPort) (control : Bool) (length : Byte) (bytes : List Byte) : Prop :=
  length = 0 ∨ 244 < length.toNat ∨ bytes.length < length.toNat ∨ (control = true ∧ p = .rpt)

section Message

variable {p : SpiPort} {envelope length : Byte} {bytes : List Byte} (picks : List Nat) (s : State)

/-- The model's test is R159's list of faults. -/
theorem spiFaulty_iff (control : Bool) : SpiFaulty p control length bytes ↔
    length.toNat = 0 ∨ 244 < length.toNat ∨ bytes.length < length.toNat ∨ (control = true ∧ p = .rpt) :=
  or_congr (BitVec.toNat_inj (y := 0)).symm Iff.rfl

theorem spiMessage_faulty (h : SpiFaulty p (envelope.getLsbD 7) length bytes) :
    spiMessage p envelope (length :: bytes) picks s =
      answerMalformed (chanOf (spiPort p) (Fin.ofNat 4 envelope.toNat)) (bufOfBit (envelope.getLsbD 2)) s :=
  if_pos ((spiFaulty_iff _).mp h)

/-- A transaction released before its length byte has length 0 (log 20). -/
theorem spiMessage_cut : spiMessage p envelope [] picks s =
    answerMalformed (chanOf (spiPort p) (Fin.ofNat 4 envelope.toNat)) (bufOfBit (envelope.getLsbD 2)) s := by
  unfold spiMessage
  exact if_pos (Or.inl rfl)

variable (h : ¬ SpiFaulty p (envelope.getLsbD 7) length bytes)
include h

theorem spiMessage_request (hc : envelope.getLsbD 7 = false) : spiMessage p envelope (length :: bytes) picks s =
    deliver (chanOf (spiPort p) (Fin.ofNat 4 envelope.toNat)) (bufOfBit (envelope.getLsbD 2)) (bytes.take length.toNat) s :=
  (if_neg (mt (spiFaulty_iff _).mpr h)).trans (if_neg (Bool.eq_false_iff.mp hc))

theorem spiMessage_command (hc : envelope.getLsbD 7 = true) : spiMessage p envelope (length :: bytes) picks s =
    deliverCommand ⟨Fin.ofNat 4 envelope.toNat, bufOfBit (envelope.getLsbD 2)⟩ (bytes.take length.toNat) picks s :=
  (if_neg (mt (spiFaulty_iff _).mpr h)).trans (if_pos hc)

end Message

/-! ### The command of a control message (R162) -/

section Command

variable {env : Envelope} {code : Byte} {args : List Byte} (picks : List Nat) (s : State)

theorem deliverCommand_known {q : Command} (h : parseCommand code args = some q) :
    deliverCommand env (code :: args) picks s = runCommand env q picks s := by
  unfold deliverCommand
  rw [List.headD_cons, List.tail_cons, h]

theorem deliverCommand_unknown (h : parseCommand code args = none) :
    deliverCommand env (code :: args) picks s = answerCommand env code .malformed [] s := by
  unfold deliverCommand
  rw [List.headD_cons, List.tail_cons, h]

/-- The row of a command runs it as the control message that spells it does (R162). -/
theorem exec_commandRow {q : Command} {c : Instr} {u : State} (ht : TakenAt s u) (h : commandRow env picks q = some c) :
    exec c s = .next (runCommand env q picks u) := by
  cases q with
  | monitorBadSelector => cases h
  | _ => cases h; exact running_at ht

end Command

/-- Settles O40, by the faults, the control mark and the command that the body spells. -/
theorem writeMessageDelivers : Obligations.WriteMessageDelivers := by
  refine ⟨fun p envelope length bytes race s u ht => ?_, fun p envelope race s u ht => ?_,
    fun k m s u ht => (exec_row k m s).trans (running_at ht), fun env race q c s u ht h => exec_commandRow race s ht h,
    fun p rest race s => ⟨congrArg (running · s) (funext (spiTransaction_readReply p rest race)),
      congrArg (running · s) (funext (spiTransaction_readStatus p rest race))⟩⟩
  · intro quiet w i b control body written faulty
    have size : (envelope :: length :: bytes).length = 2 + bytes.length := by
      rw [List.length_cons, List.length_cons]
      omega
    have driven : setMiso p (List.replicate (envelope :: length :: bytes).length 0) u = w := by
      rw [size]
      cases p <;> rfl
    have transaction : spiTransaction p (0xA1#8 :: envelope :: length :: bytes) race u =
        spiMessage p envelope (length :: bytes) race w := by
      rw [spiTransaction_write, driven]
      rfl
    have message : ∀ v, spiMessage p envelope (length :: bytes) race w = v → written = .next v := fun v e =>
      running_next ht (transaction.trans e)
    refine ⟨fun hf => message _ (spiMessage_faulty race w hf), fun hf hc => message _ (spiMessage_request race w hf hc),
      fun hf hc code args spelled => ?_⟩
    have command : spiMessage p envelope (length :: bytes) race w = deliverCommand ⟨i, b⟩ (code :: args) race w :=
      spelled ▸ spiMessage_command race w hf hc
    exact ⟨fun q h => message _ (command.trans (deliverCommand_known race w h)),
      fun h => message _ (command.trans (deliverCommand_unknown race w h))⟩
  · intro driven
    have drives : ∀ bytes, setMiso p bytes u = driven bytes := fun bytes => by cases p <;> rfl
    exact ⟨running_next ht (drives []), running_next ht (drives [0] ▸ spiMessage_cut race (setMiso p [0] u))⟩

/-! ### READ REPLY (R160, 11.3) -/

theorem replyBytes_eq (r : Reply) : replyBytes r = leBytes 2 (4 + r.payload.length) ++
    BitVec.ofNat 8 ((chanIdx r.chan).val + (if r.buf = .y then 4 else 0)) ::
      r.kind :: statusCode r.status :: (if r.clamped then 1 else 0) :: r.payload := by
  have four : 1 + (replyBody r).length = 4 + r.payload.length := by
    rw [replyBody_length]
    omega
  unfold replyBytes
  rw [four]
  cases r.buf <;> rfl

theorem replyBytes_length (r : Reply) : (replyBytes r).length = 6 + r.payload.length := by
  rw [replyBytes_eq]
  simp only [List.length_append, List.length_cons, leBytes_length]
  omega

section ReadReply

variable {p : SpiPort} (n : Nat) {s : State}

theorem spiReadReply_empty (h : repliesAt (spiPort p) s = []) :
    spiReadReply p n s = setMiso p (([0, 0] : List Byte).take n) s := by
  unfold spiReadReply
  rw [h]
  rfl

variable {r : Reply} {rest : List Reply} (h : repliesAt (spiPort p) s = r :: rest)
include h

theorem spiReadReply_head : spiReadReply p n s =
    if 6 + r.payload.length ≤ n then setReplies (spiPort p) rest (setMiso p ((replyBytes r).take n) s)
    else setMiso p ((replyBytes r).take n) s := by
  unfold spiReadReply
  rw [h]
  dsimp only
  rw [replyBytes_length]

end ReadReply

/-! ### READ STATUS and the ready lines (R160, 11.4) -/

theorem channelNibble_eq (ch : Channel) : channelNibble ch =
    (match ch.state with
      | .closed => 0
      | .idle => 1
      | .busy => 2
      | .streaming => 3
      | .halted => 4) + (if ch.expect = .y then 8 else 0) := by
  have mark : 8 * bufBit ch.expect = if ch.expect = .y then 8 else 0 := by cases ch.expect <;> rfl
  unfold channelNibble
  rw [mark]
  cases ch.state <;> rfl

/-- SVP's last byte: the freeze in bit 0, ALERT in bit 1. -/
theorem freezeAlert_eq (s : State) : s.monitor.freeze.isSome.toNat + 2 * s.alert.toNat =
    (if s.monitor.freeze = none then 0 else 1) + (if s.alert = true then 2 else 0) := by
  cases s.monitor.freeze <;> cases s.alert <;> rfl

theorem rrdy_iff {s : State} (h : s.inReset = false) : s.rrdy = true ↔ repliesAt .rpt s ≠ [] := by
  unfold State.rrdy
  rw [h, Bool.not_false, Bool.true_and, Bool.not_eq_true', List.isEmpty_eq_false_iff]
  rfl

theorem vrdy_iff {s : State} (h : s.inReset = false) : s.vrdy = true ↔ repliesAt .svp s ≠ [] := by
  unfold State.vrdy
  rw [h, Bool.not_false, Bool.true_and, Bool.not_eq_true', List.isEmpty_eq_false_iff]
  rfl

/-- Settles O41, by the queue's head and the bytes clocked out, and by the port of a READ STATUS. -/
theorem spiReadsDriveRepliesAndStatus : Obligations.SpiReadsDriveRepliesAndStatus := by
  refine ⟨fun p n s u ht => ?_, fun s h => ⟨rrdy_iff h, vrdy_iff h⟩⟩
  intro driven
  have drives : ∀ bytes, setMiso p (bytes.take n) u = driven bytes u := fun bytes => by cases p <;> rfl
  refine ⟨fun empty => running_next ht ((spiReadReply_empty n empty).trans (drives [0, 0])), fun r rest head => ?_, ?_⟩
  · intro bytes
    have reply : spiReadReply p n u =
        if 6 + r.payload.length ≤ n then setReplies (spiPort p) rest (driven bytes u) else driven bytes u := by
      rw [spiReadReply_head n head, drives, replyBytes_eq]
    exact ⟨fun cut => running_next ht (reply.trans (if_neg (Nat.not_le.mpr cut))),
      fun whole => running_next ht (reply.trans (if_pos whole))⟩
  · intro channel depth
    refine running_next ht ((drives _).trans (congrArg (driven · u) ?_))
    have nibble : ∀ i, byte (channelNibble (chanAt (chanOf (spiPort p) i) u)) = channel i := fun i =>
      congrArg (BitVec.ofNat 8) (channelNibble_eq _)
    unfold readStatusBytes
    rw [funext nibble, freezeAlert_eq]
    cases p <;> rfl

end Sys2Proof.Machine
end

section
/-! STATUS READ (R163) and GATEWAY RESET (R164): the image of the part's state (11.6), and what the reset keeps. -/

namespace Sys2Proof.Machine

/-! ### The bytes of STATUS READ (11.6) -/

/-- A channel's byte: state, mark, halt cause and clear pending. -/
theorem channelByte_eq (ch : Channel) : channelByte ch = BitVec.ofNat 8
    ((match ch.state with
      | .closed => 0
      | .idle => 1
      | .busy => 2
      | .streaming => 3
      | .halted => 4) +
    (if ch.expect = .y then 8 else 0) +
    (match ch.haltCause with
      | none => 0
      | some .command => 16
      | some .replyDropped => 32
      | some .overrun => 48) +
    (if ch.clearPending then 64 else 0)) := by
  have cause : 16 * haltCauseCode ch.haltCause = match ch.haltCause with
      | none => 0
      | some .command => 16
      | some .replyDropped => 32
      | some .overrun => 48 := by
    rcases ch.haltCause with _ | _ | _ | _ <;> rfl
  have pending : 64 * ch.clearPending.toNat = if ch.clearPending then 64 else 0 := by cases ch.clearPending <;> rfl
  unfold channelByte
  rw [channelNibble_eq, cause, pending]
  rfl

theorem busStateCode_eq (x : BusState) : busStateCode x = match x with
    | .active => 0
    | .off => 1
    | .asleep => 2 := by
  cases x <;> rfl

/-- A channel's code names its port and its index there. -/
theorem chanCode_eq : ∀ c : ChanId, chanCode c = BitVec.ofNat 8 (128 + 16 * (c.val / 4 + 1) + c.val % 4) := by decide

theorem rowSlotByte_eq (r : Option RowSlot) : rowSlotByte r = match r with
    | none => 0
    | some x => if x.orphan then 3 else 1 := by
  rcases r with _ | x
  · rfl
  · rcases x with ⟨unit, orphan⟩
    cases orphan <;> rfl

/-! ### The length of the image -/

theorem contextImage_length (x : Option Stream) : (contextImage x).length = 11 := by
  rcases x with _ | x
  · exact List.length_replicate
  · rfl

/-- Three bytes for each of five places (R100). -/
theorem jobsImage_length {m : MapEngine} (h : MapPlaces m) : (jobsImage m).length = 15 := by
  have places := jobsOf_length m h
  have three : ((jobsOf m).flatMap jobImage).length = 3 * (jobsOf m).length := by
    have each : ∀ j, (jobImage j).length = 3 := fun _ => rfl
    rw [List.length_flatMap, funext each, List.map_const', List.sum_replicate, smul_eq_mul, Nat.mul_comm]
  unfold jobsImage
  rw [List.length_append, List.length_replicate, three]
  omega

theorem freezeImage_length (f : Option FreezeCause) : (freezeImage f).length = 4 := by
  rcases f with _ | _ | _ | _ <;> rfl

/-- R163: the image of 11.6 is 97 bytes. -/
theorem statusReadImage_length {s : State} (h : MapPlaces s.map) : (statusReadImage s).length = 97 := by
  have contexts : (allCtxs.flatMap fun k => contextImage (streamAt k s)).length = 44 := by
    rw [List.length_flatMap, funext fun k => contextImage_length (streamAt k s)]
    rfl
  have channels : (allChans.map fun c => channelByte (chanAt c s)).length = 12 := List.length_map _
  have buses : ∀ b, (busImage b).length = 3 := fun _ => rfl
  unfold statusReadImage
  simp only [List.length_append, List.length_cons, List.length_nil, leBytes_length, contexts, channels, buses,
    jobsImage_length h, freezeImage_length]

/-! ### GATEWAY RESET -/

section Reset

variable (s : State)

theorem grantAt_resetBlocks (g : Slot) : grantAt g (resetBlocks s) = Grant.vacant := Vector.get_replicate ..
theorem unitAt_resetBlocks (v : UnitId) : unitAt v (resetBlocks s) = resetUnit (unitAt v s) := vector_get_ofFn _ _
theorem chanAt_resetBlocks (c : ChanId) : chanAt c (resetBlocks s) = Channel.initial := Vector.get_replicate ..
theorem streamAt_resetBlocks (k : CtxId) : streamAt k (resetBlocks s) = none := Vector.get_replicate ..
theorem busAt_resetBlocks (b : BusId) : busAt b (resetBlocks s) = resetBus (busAt b s) := by cases b <;> rfl

/-- The part after the reset and its RESET record, before the answer (R153, R164). -/
def resetState : State := writeRecord none none none none .reset (resetBlocks s)

/-- The RESET record alone can hand flags to the emptied monitor (R147, R151, R153). -/
theorem resetState_monitor : (resetState s).monitor = { resetMonitor s.monitor with
    trailWrapped := decide (64 ≤ s.trail.records.length)
    trailHigh := decide (47 ≤ s.trail.records.length) } := by
  unfold resetState
  rw [writeRecord_eq]
  exact congrArg₂ (fun w h => { resetMonitor s.monitor with trailWrapped := w, trailHigh := h })
    (Bool.false_or _) (Bool.false_or _)

/-- The reset's own answer finds its queue empty. -/
theorem gatewayReset_eq (env : Envelope) :
    gatewayReset env s = pushReply (commandReply env 0x99 .done []) (resetState s) :=
  answerCommand_room (u := resetState s) (Nat.zero_lt_succ 11)

theorem repliesAt_reset (p : Port) : repliesAt p (resetState s) = [] := by
  cases p <;> rfl

/-- The answer stands alone at SVP. -/
theorem repliesAt_reset_svp (env : Envelope) :
    repliesAt .svp (pushReply (commandReply env 0x99 .done []) (resetState s)) = [commandReply env 0x99 .done []] := by
  have port : chanPort (commandReply env 0x99 .done []).chan = .svp := chanPort_svp env.idx
  have joined := repliesAt_pushReply (commandReply env 0x99 .done []) (resetState s)
  rw [port, repliesAt_reset] at joined
  exact joined

theorem repliesAt_reset_other (env : Envelope) {p : Port} (h : p ≠ .svp) :
    repliesAt p (pushReply (commandReply env 0x99 .done []) (resetState s)) = [] := by
  have port : chanPort (commandReply env 0x99 .done []).chan = .svp := chanPort_svp env.idx
  rw [repliesAt_pushReply_ne _ _ (port.symm ▸ h), repliesAt_reset]

end Reset

/-- Settles O60: the reset block by block, the image part by part. -/
theorem gatewayResetAndStatusRead : Obligations.GatewayResetAndStatusRead := by
  refine ⟨fun env s u ht => ⟨_, running_next ht (gatewayReset_eq u env), ?_⟩, fun env s u ht => ?_⟩
  · have released : (pushReply (commandReply env 0x99 .done []) (resetState u)).inReset = false := by
      obtain ⟨hs, rfl⟩ := ht
      exact (keeps_advance_settle s).inReset.trans hs
    have remote := repliesAt_reset_other u env (p := .rpt) (by decide)
    have monitor := resetState_monitor u
    have counters : ∀ i, (resetState u).monitor.counters.get i = 0 ∧ (resetState u).monitor.flags.get i = false ∧
        (resetState u).monitor.edges.get i = false := fun i =>
      ⟨Vector.get_replicate .., Vector.get_replicate .., Vector.get_replicate ..⟩
    refine ⟨grantAt_resetBlocks u, unitAt_resetBlocks u, chanAt_resetBlocks u, streamAt_resetBlocks u, rfl,
      busAt_resetBlocks u, rfl, counters, rfl, rfl, rfl, rfl, rfl, rfl, rfl, rfl, congrArg Monitor.trailWrapped monitor,
      congrArg Monitor.trailHigh monitor, rfl, repliesAt_reset_other u env (by decide),
      remote, repliesAt_reset_svp u env, Bool.eq_false_iff.mpr fun up => (rrdy_iff released).mp up remote,
      (vrdy_iff released).mpr ?_, rfl, rfl, rfl⟩
    rw [repliesAt_reset_svp]
    exact List.cons_ne_nil _ _
  · intro depth channel bus named context jobs job image
    have channels : ∀ c, channelByte (chanAt c u) = channel c := fun c => channelByte_eq (chanAt c u)
    have buses : ∀ b, busImage (busAt b u) = bus b := fun b => congrArg (· :: _) (busStateCode_eq _)
    have ub0 : busImage u.buses.ub0 = bus .ub0 := buses .ub0
    have ub1 : busImage u.buses.ub1 = bus .ub1 := buses .ub1
    have contexts : ∀ k, contextImage (streamAt k u) = context k := by
      intro k
      dsimp only [context]
      rcases streamAt k u with _ | x
      · rfl
      · unfold contextImage
        dsimp only
        rw [chanCode_eq]
        cases x.state <;> rfl
    have images : ∀ j, jobImage j = job j := by
      intro j
      dsimp only [job]
      unfold jobImage
      rw [chanCode_eq]
      cases j.kind <;> rfl
    have same : statusReadImage u = image := by
      unfold statusReadImage jobsImage
      rw [ub0, ub1, funext channels, funext contexts, (funext images : jobImage = job), freezeImage_eq, rowSlotByte_eq,
        ← List.append_assoc]
      rfl
    rw [← same]
    exact ⟨running_at ht, statusReadImage_length⟩

end Sys2Proof.Machine
end

section
/-! Power and reset (R168): a command at the front of the queue is taken, nothing is taken while RESET_N is low, and the values
after power-on. -/

namespace Sys2Proof.Machine

/-! ### The step on a waiting command -/

theorem step_pending (c : Instr) (rest : List Instr) (s : State) :
    step { s with pending := c :: rest } = exec c { s with pending := rest } := rfl

/-- Settles O1: it is the second case of `step`. -/
theorem stepTakesTheFrontCommand : Obligations.StepTakesTheFrontCommand := step_pending

/-! ### While RESET_N is low (R168) -/

section Held

variable {s : State}

theorem running_inReset (h : s.inReset = true) (f : State → State) : running f s = .next s := if_pos h

theorem runningInternal_inReset (h : s.inReset = true) (f : State → State) : runningInternal f s = .next s := if_pos h

/-- Power-on, the pin's assertion and the truck's raw lines apart, every row acts on a running part or takes an internal step of
one (log 6). -/
theorem exec_inReset (h : s.inReset = true) {c : Instr} (power : c ≠ .powerOn) (pin : c ≠ .resetNAsserted)
    (line : ∀ l b, c ≠ .rawLineChange l b) : exec c s = .next s := by
  cases c with
  | powerOn => exact absurd rfl power
  | resetNAsserted => exact absurd rfl pin
  | rawLineChange l b => exact absurd rfl (line l b)
  | waitListPromotion v => exact runningInternal_inReset h (promoteWait v)
  | streamContextFreed k => exact runningInternal_inReset h (freeStream k)
  | mapJobStart => exact runningInternal_inReset h startJob
  | stagedRequestPromotion c => exact runningInternal_inReset h (promoteStagedRow c)
  | channelDrained c => exact runningInternal_inReset h (drainChannel c)
  | _ => exact running_inReset h _

theorem rrdy_inReset (h : s.inReset = true) : s.rrdy = false := by
  unfold State.rrdy
  rw [h]
  rfl

theorem vrdy_inReset (h : s.inReset = true) : s.vrdy = false := by
  unfold State.vrdy
  rw [h]
  rfl

end Held

/-! ### The values after power-on -/

section Values

variable (raw : PerLine Bool)

theorem filterTimers_powerOn (l : Line) : (State.powerOn raw).filterTimers.get l = none := by cases l <;> rfl

theorem busAt_powerOn (b : BusId) : busAt b (State.powerOn raw) = Bus.initial raw.ign := by cases b <;> rfl

theorem repliesAt_powerOn (p : Port) : repliesAt p (State.powerOn raw) = [] := by cases p <;> rfl

/-- R146: the monitor has no reason for ALERT after power-on. -/
theorem alert_powerOn : (State.powerOn raw).alert = false := by
  obtain ⟨_, _, quiet⟩ := alertFollowsFreezeAndStatus
  exact quiet raw

/-- `State.powerOn` holds the listed values, whatever commands wait: no listed value is about them. -/
theorem powerOnValues_powerOn (waiting : List Instr) :
    PowerOnValues raw { State.powerOn raw with pending := waiting } where
  released := rfl
  lines := ⟨rfl, rfl, filterTimers_powerOn raw⟩
  grants _ := Vector.get_replicate ..
  units _ := Vector.get_replicate ..
  chans _ := Vector.get_replicate ..
  streams _ := Vector.get_replicate ..
  map := rfl
  buses := busAt_powerOn raw
  counters _ := ⟨Vector.get_replicate .., Vector.get_replicate .., Vector.get_replicate ..⟩
  setups _ := Vector.get_replicate ..
  status := ⟨rfl, rfl, rfl, rfl, rfl⟩
  policies := ⟨rfl, rfl, rfl, rfl⟩
  trail := rfl
  service := ⟨rfl, rfl, rfl, rfl, fun _ => Vector.get_replicate .., rfl, rfl⟩
  replies := repliesAt_powerOn raw
  outputs := ⟨alert_powerOn raw, rfl, rfl⟩
  model := ⟨rfl, rfl⟩

end Values

/-- Settles O3: reset is power-on with the lines deasserted and an empty queue. -/
theorem resetGivesPowerOnValues : Obligations.ResetGivesPowerOnValues :=
  ⟨powerOnValues_powerOn _ [], fun b => congrArg Bus.state (busAt_powerOn _ b), rfl⟩

/-- Settles O4: POWER_ON gives `State.powerOn` at the raw lines, and RESET_N_ASSERTED the same held in reset. -/
theorem powerOnAndResetAssertion : Obligations.PowerOnAndResetAssertion := by
  intro s
  have values := powerOnValues_powerOn s.raw s.pending
  exact ⟨fun held => ⟨fun _ power pin line => exec_inReset held power pin line,
      alert_inReset held, rrdy_inReset held, vrdy_inReset held⟩,
    ⟨_, rfl, values, rfl⟩,
    ⟨_, rfl, rfl, values, alert_inReset rfl, rrdy_inReset rfl, vrdy_inReset rfl, rfl⟩⟩

end Sys2Proof.Machine
end
